-- ==== Sys2Proof/Word.lean ====
section
/-! DEFINITION. The value types that travel on the wires (spec/10_state.md R13 to R17). Bit index 0 is the
least-significant bit everywhere (R7, R32). -/

namespace Sys2Proof

/-- A Word of width `n`: `n` wires, wire `i` carrying bit `i` of an unsigned value in [0, 2^n - 1] (R14). -/
abbrev Word (n : Nat) := BitVec n

/-- A Bit: one wire, exactly two values (R13). It is the one-lane Word, so that a gate's Bit form IS its Word
form at width 1 (R55: "The Bit form of a gate is the case W = 1"). -/
abbrev Bit := BitVec 1

/-- The ALU's opcode port carries one 8-bit Word whatever the operand width is (R6 W_OP, R43). -/
abbrev OpByte := BitVec 8

/-- A BitVector: an ordered sequence of exactly `n` Bits, index 0 first (R15). It is a type of its own beside
`Word`; the Splitter and the Hub convert between the two. -/
abbrev BitVector (n : Nat) := Vector Bit n

/-- The two output ports of HalfAdder and FullAdder (`n = 1`) and of the ripple-carry Adder (R17, R27). -/
structure SumCarry (n : Nat) where
  /-- The sum: as many lanes as the operands, never one more (R86). -/
  SUM : Word n
  /-- The carry-out of the most-significant position (R85). -/
  CARRY : Bit
  deriving DecidableEq, Repr

end Sys2Proof
end

