-- ==== Sys2Proof/Syntax.lean ====
section
/-! DEFINITION. What can be asked of the hardware: the eight opcodes of the ALU (spec/30_encoding.md), the eighteen
components (spec/00_scope.md R2), their named ports (spec/10_state.md R24 to R29) and the `run` call of the
integer-valued interface (R24, spec/60_exceptions.md R131). -/

namespace Sys2Proof

/-- The instruction of the ALU: one constructor for each row of spec/opcode_table.json (R48). The operands are not
encoded (R45): they are on the ports `A` and `B`. `ign` is the field of bits 7:3 of format OPB (R43), connected to
nothing (R50); it is kept so that an opcode byte and an instruction determine each other. -/
inductive Instr where
  /-- `opc` = 0: bitwise OR (R112). -/
  | or (ign : BitVec 5)
  /-- `opc` = 1: N-lane complement of the AND (R113). -/
  | nand (ign : BitVec 5)
  /-- `opc` = 2: N-lane complement of the OR (R114). -/
  | nor (ign : BitVec 5)
  /-- `opc` = 3: bitwise AND (R115). -/
  | and (ign : BitVec 5)
  /-- `opc` = 4: sum modulo 2^N, carry-in 0 (R116). -/
  | add (ign : BitVec 5)
  /-- `opc` = 5: difference modulo 2^N (R117). -/
  | sub (ign : BitVec 5)
  /-- `opc` = 6: product modulo 2^N (R118). -/
  | mul (ign : BitVec 5)
  /-- `opc` = 7: the reserved slot, result 0 (R119). -/
  | rsvd7 (ign : BitVec 5)
  deriving DecidableEq, Repr

/-- The names of the ports of R25 to R29, inputs and outputs together. They are also the field names of the `run`
mappings (R24). -/
inductive PortName where
  | A | B | C | S | op | W | BITS | IDX | Y | SUM | CARRY | EN
  deriving DecidableEq, Repr

/-- The type of a port (R24 to R29). -/
inductive PortType where
  /-- A Word of the given width. -/
  | word (n : Nat)
  /-- One Bit. -/
  | bit
  /-- A BitVector of the given length. -/
  | bits (n : Nat)
  deriving DecidableEq, Repr

/-- What a field of a `run` mapping can hold: "either a single fixed-width integer or an ordered bit sequence"
(R24), both unconstrained (R131). -/
inductive FieldValue where
  | int (v : Int)
  | bits (l : List Int)
  deriving DecidableEq, Repr

/-- A `run` mapping from field names to values (R24). The value of a name is that of its first entry. -/
abbrev Fields := List (PortName × FieldValue)

/-- An instance of a component: exactly the eighteen of R2, each with the width fixed at its construction (R5, R150).
A gate exists at every lane count `w`, its Bit form being `w = 1` (R25, R55). -/
inductive Component where
  | not (w : Nat) | nand (w : Nat) | and (w : Nat) | or (w : Nat) | nor (w : Nat) | xor (w : Nat) | xnor (w : Nat)
  | splitter (width : Nat) | hub (width : Nat)
  | decoder (width : Nat) | switch (n : Nat)
  | halfAdder | fullAdder | adder (n : Nat)
  | negator (n : Nat) | subtractor (n : Nat) | multiplier (n : Nat)
  | alu (n : Nat)
  deriving DecidableEq, Repr

/-- One `run(inputs)` call of the integer-valued interface, as the environment presents it (R24, R131). -/
structure Call where
  component : Component
  inputs : Fields
  deriving DecidableEq, Repr

end Sys2Proof
end

