-- ==== Sys2Proof/Config.lean ====
section
/-! DEFINITION. What is fixed for the hardware (spec/00_scope.md R5, R6) and the one value the spec leaves free
(spec/93_implementation_defined.md U13). -/

namespace Sys2Proof.Config

/-- W_OP: width of the opcode port (R6). -/
def opPortWidth : Nat := 8

/-- W_DEC: width of the ALU's Decoder input (R6). -/
def decoderWidth : Nat := 3

/-- N_SLOT: length of the one-hot enable vector and number of OR-reduction inputs (R6). -/
def slotCount : Nat := 8

/-- N_FUNC: number of ALU functions, opcodes 0 to 6 (R6). -/
def functionCount : Nat := 7

/-- The word widths the document instantiates (R5). Every rule is stated, and modelled, for any N of at least 1. -/
def documentWidths : List Nat := [8, 32]

/-- DESIGN CHOICE (notes/assumptions/2.md), unsafe for a claim that leans on it: the width of the instance that
`State.reset` shows. N is an open parameter of the hardware (R5); 8 is one of its two instantiated values. -/
def resetWidth : Nat := 8

/-- FREE VALUE (U13, notes/assumptions/6.md): which of several absent required fields a MissingField failure names.
The spec says any of them; nothing in Lean can evaluate this number. It is read modulo the number of absent fields. -/
opaque missingFieldIndex : Component → Fields → Nat

end Sys2Proof.Config
end

