-- ==== Sys2Proof/Decode.lean ====
section
/-! DEFINITION. The opcode byte, format OPB (spec/30_encoding.md R43): bits 7:3 `ign`, bits 2:0 `opc`. Decoding from the
opcode map R48, total over all 256 bytes (R44, R50); the encoder; and the two maps over sequences of bytes. -/

namespace Sys2Proof

/-- The field `opc`, bits 2:0 of the opcode byte (R43). -/
def opcField (b : OpByte) : BitVec 3 := b.extractLsb' 0 3

/-- The field `ign`, bits 7:3 of the opcode byte (R43). -/
def ignField (b : OpByte) : BitVec 5 := b.extractLsb' 3 5

/-- The instruction of an opcode byte: the row of R48 whose bits 2:0 are those of the byte (bit 2, bit 1, bit 0 below).
Total: the eight rows cover every value of `opc`, and `ign` can be anything (R48, R50). -/
def decode (b : OpByte) : Instr :=
  match b.getLsbD 2, b.getLsbD 1, b.getLsbD 0 with
  | false, false, false => .or (ignField b)
  | false, false, true => .nand (ignField b)
  | false, true, false => .nor (ignField b)
  | false, true, true => .and (ignField b)
  | true, false, false => .add (ignField b)
  | true, false, true => .sub (ignField b)
  | true, true, false => .mul (ignField b)
  | true, true, true => .rsvd7 (ignField b)

/-- Why a sequence of bytes is no instruction: the instruction is always exactly one byte (R43, R51). No byte is
rejected for its value (R50). -/
inductive DecodeReject where
  /-- There is no byte to read. -/
  | noByte
  /-- There is more than one byte. -/
  | longerThanOneByte
  deriving DecidableEq, Repr

/-- Decoding over any sequence of bytes. -/
def decodeBytes : List OpByte → Except DecodeReject Instr
  | [] => .error .noByte
  | [b] => .ok (decode b)
  | _ :: _ :: _ => .error .longerThanOneByte

/-- The value of the field `opc` that selects the instruction (R48). -/
def Instr.opc : Instr → BitVec 3
  | .or _ => 0b000#3
  | .nand _ => 0b001#3
  | .nor _ => 0b010#3
  | .and _ => 0b011#3
  | .add _ => 0b100#3
  | .sub _ => 0b101#3
  | .mul _ => 0b110#3
  | .rsvd7 _ => 0b111#3

/-- The ignored bits that the instruction carries (R50). -/
def Instr.ign : Instr → BitVec 5
  | .or g | .nand g | .nor g | .and g | .add g | .sub g | .mul g | .rsvd7 g => g

/-- The opcode byte of an instruction: `ign` in bits 7:3, `opc` in bits 2:0 (R43). -/
def encode (i : Instr) : OpByte := i.ign ++ i.opc

/-- The bytes of an instruction: always one (R51). -/
def encodeBytes (i : Instr) : List OpByte := [encode i]

/-- What the decoder answers for a row of spec/opcode_table.json of `nbits` bits whose bits are `w`. Up to 8 bits are one
opcode byte, the bits from `nbits` up being 0; more than 8 bits are no instruction of this hardware (R51). -/
def decodeTableWord (nbits w : Nat) : Option Instr :=
  if nbits ≤ Config.opPortWidth then (decodeBytes [BitVec.ofNat 8 (w % 2 ^ nbits)]).toOption else none

end Sys2Proof
end

