-- ==== Sys2Proof/Machine/State.lean ====
section
/-! DEFINITION. The state of the machine, the reasons an evaluation can stop, and the state after reset.

The hardware itself stores nothing (spec/10_state.md R18 to R23): no register, program counter, flag, control register
or memory is a field here because the spec says that none exists. What a State holds is the port values of one
evaluation of the ALU (R29), the construction parameter N (R5, R21), and the two fields of the environment's
integer-valued interface (R24, R131). None is read by a later evaluation except as an input port. -/

namespace Sys2Proof.Machine

open Sys2Proof

/-- The two precondition failures of the `run` contract (spec/60_exceptions.md R131 to R136), each with the name of the
field and nothing else. Raised by `Machine.run` only; the step takes the failure (`takePreconditionFailure`) and the
machine goes on (R141), so no step of the machine ends in one. Safe: the call has no outputs (R140). -/
inductive Fault where
  /-- A required input field is absent from the mapping (R132). Raised by `Machine.run` for every component. Safe. -/
  | missingField (name : PortName)
  /-- Field `C` of FullAdder or Adder is present and not in {0, 1} (R133). Raised by `Machine.run`. Safe. -/
  | invalidRange (name : PortName)
  deriving DecidableEq, Repr

/-- Inputs to which the model gives no meaning. Refusing is safe: nothing is claimed of the outcome. -/
inductive Refusal where
  /-- An instruction without a meaning in this model. No arm of `exec` answers it: every opcode is modelled. Safe. -/
  | notModelled (mnemonic : String)
  /-- Raised by `Machine.run` where a field holds a value outside its port's type that the document neither truncates nor
  fails: over-wide or negative integers, elements other than 0 and 1, a sequence of another length (R135: the wrapper
  "refuses rather than inventing a value"; U1, U3, U8, U10, U11, U15). Safe. -/
  | outOfType (component : Component)
  /-- Raised by `Machine.run` for a component of width 0, which cannot be built (R5: N >= 1). Safe. -/
  | zeroWidth (component : Component)
  deriving DecidableEq, Repr

/-- What a completed `run` call handed back: its output fields, or the failure that aborted it with no output at all
(R140). -/
inductive Answer where
  | outputs (fields : Fields)
  | failed (reason : Fault)
  deriving DecidableEq, Repr

/-- The record of a completed `run` call. -/
structure CallRecord where
  component : Component
  answer : Answer
  deriving DecidableEq, Repr

/-- The port values of the ALU, the construction parameter, and the environment's interface. -/
structure State where
  /-- N, the width the instance was built with (R5, R150); never changed by a step (R21). -/
  width : Nat
  /-- The ALU's first operand port (R29). -/
  A : Word width
  /-- The ALU's second operand port (R29). -/
  B : Word width
  /-- The ALU's opcode port (R29, R43). -/
  op : OpByte
  /-- The ALU's output port as the environment last sampled it (R29, R153). No evaluation reads it. -/
  Y : Word width
  /-- The MODEL's own field (notes/assumptions/4.md): the `run` call that the environment presents, if any. -/
  call : Option Call
  /-- The MODEL's own field (notes/assumptions/4.md): what the last `run` call handed back. No evaluation reads it. -/
  result : Option CallRecord
  deriving DecidableEq, Repr

/-- The instance of width `n` before its first evaluation. Nothing is stored, so nothing has a reset value (R147, R149);
the ports show A = B = op = 0 (DESIGN CHOICE, notes/assumptions/1.md) and the Y that R149 gives for them, 0. -/
def State.resetAt (n : Nat) : State :=
  { width := n, A := 0, B := 0, op := 0, Y := 0, call := none, result := none }

/-- The machine right after reset, at the width `Config.resetWidth` (notes/assumptions/2.md). -/
def State.reset : State := State.resetAt Config.resetWidth

end Sys2Proof.Machine
end

