-- ==== Sys2Proof/Machine/Gates.lean ====
section
/-! DEFINITION. The Gate Layer (spec/40_gates.md). NOT and NAND are the primitives, and only those two (R54); the other
five are built from them exactly as the document wires them. Each gate is one definition over `w` lanes; `w = 1` is its
Bit form (R55). -/

namespace Sys2Proof.Machine

open Sys2Proof

/-- NOT, primitive: the `w`-lane complement (R56, R63). -/
def notGate {w : Nat} (A : Word w) : Word w := ~~~A

/-- NAND, primitive: "defined primitively as `~(A & B)`", the complement being that of `w` lanes (R57, R63). -/
def nandGate {w : Nat} (A B : Word w) : Word w := ~~~(A &&& B)

/-- AND = NOT(NAND(A, B)) (R58, R63). -/
def andGate {w : Nat} (A B : Word w) : Word w := notGate (nandGate A B)

/-- OR = NAND(NOT(A), NOT(B)) (R59, R63). -/
def orGate {w : Nat} (A B : Word w) : Word w := nandGate (notGate A) (notGate B)

/-- NOR = NOT(OR(A, B)) (R60, R63). -/
def norGate {w : Nat} (A B : Word w) : Word w := notGate (orGate A B)

/-- XOR = OR(AND(NOT(A), B), AND(NOT(B), A)), the operands in the document's order (R61, R63). -/
def xorGate {w : Nat} (A B : Word w) : Word w := orGate (andGate (notGate A) B) (andGate (notGate B) A)

/-- XNOR = NOT(XOR(A, B)) (R62, R63). -/
def xnorGate {w : Nat} (A B : Word w) : Word w := notGate (xorGate A B)

/-- One row of the gate algebra's table: two Bits and what the six two-input gates give for them (R63). -/
structure GateRow where
  A : Bit
  B : Bit
  NAND : Bit
  AND : Bit
  OR : Bit
  NOR : Bit
  XOR : Bit
  XNOR : Bit
  deriving DecidableEq, Repr

/-- The complete truth tables of the six two-input gates, row by row as R63 prints them (24 entries). For reference: no
evaluation reads them; that the gates produce them is a statement. -/
def gateAlgebra : List GateRow :=
  [{ A := 0, B := 0, NAND := 1, AND := 0, OR := 0, NOR := 1, XOR := 0, XNOR := 1 },
   { A := 0, B := 1, NAND := 1, AND := 0, OR := 1, NOR := 0, XOR := 1, XNOR := 0 },
   { A := 1, B := 0, NAND := 1, AND := 0, OR := 1, NOR := 0, XOR := 1, XNOR := 0 },
   { A := 1, B := 1, NAND := 0, AND := 1, OR := 1, NOR := 0, XOR := 0, XNOR := 1 }]

/-- The truth table of NOT (R63): input and output. For reference, as `gateAlgebra`. -/
def notAlgebra : List (Bit × Bit) := [(0, 1), (1, 0)]

/-- The row that the gates' structures produce on two Bits, in their Bit form (R63: "the structures of rules R57 to R62 produce
when evaluated with rule R56's Bit form"). -/
def gateRow (A B : Bit) : GateRow :=
  { A := A, B := B, NAND := nandGate A B, AND := andGate A B, OR := orGate A B, NOR := norGate A B, XOR := xorGate A B,
    XNOR := xnorGate A B }

end Sys2Proof.Machine
end

