-- ==== Sys2Proof/Machine/BitLayout.lean ====
section
/-! DEFINITION. The Bit Layout Layer (spec/41_bit_layout.md): Splitter and Hub, wiring only (R71). -/

namespace Sys2Proof.Machine

open Sys2Proof

/-- Bit `i` of a Word, `(w >> i) & 1` (R8, R66). -/
def lane {n : Nat} (w : Word n) (i : Nat) : Bit := (w >>> i).setWidth 1

/-- Element `i` of a BitVector; asked only for `i` below its length, where the default plays no part. -/
def elem {n : Nat} (v : BitVector n) (i : Nat) : Bit := v.getD i 0

/-- Splitter(n): `BITS[i] = (W >> i) & 1`, least-significant bit first (R66). -/
def splitter {n : Nat} (w : Word n) : BitVector n := Vector.ofFn fun i => lane w i.val

/-- The sum of `bit[j] * 2^(i + j)` over a list of Bits. -/
def hubSum : Nat → List Bit → Nat
  | _, [] => 0
  | i, b :: bs => b.toNat * 2 ^ i + hubSum (i + 1) bs

/-- Hub(n): the Word `Σ bit[i] * 2^i` (R68). -/
def hub {n : Nat} (v : BitVector n) : Word n := BitVec.ofNat n (hubSum 0 v.toList)

end Sys2Proof.Machine
end

