-- ==== Sys2Proof/Machine/AdderLayer.lean ====
section
/-! DEFINITION. The Adder Layer (spec/43_adder.md): HalfAdder, FullAdder and the ripple-carry Adder, as wired. -/

namespace Sys2Proof.Machine

open Sys2Proof

/-- HalfAdder: sum = XOR(A, B), carry = AND(A, B) (R78). -/
def halfAdder (A B : Bit) : SumCarry 1 := { SUM := xorGate A B, CARRY := andGate A B }

/-- FullAdder: two chained HalfAdders, `A` and `B` into the first and the carry-in into the second, the carries merged by
an OR. The document insists on this netlist (R79, conflict C8). -/
def fullAdder (A B C : Bit) : SumCarry 1 :=
  let h0 := halfAdder A B
  let h1 := halfAdder h0.SUM C
  { SUM := h1.SUM, CARRY := orGate h0.CARRY h1.CARRY }

/-- The carry `c[i]` of the ripple: `c[0]` is the carry-in, `c[i+1]` the carry-out of position `i` (R83). -/
def carryAt {n : Nat} (a b : BitVector n) (C : Bit) : Nat → Bit
  | 0 => C
  | i + 1 => (fullAdder (elem a i) (elem b i) (carryAt a b C i)).CARRY

/-- Adder(n): the operands split, one FullAdder per position with the carry rippling from bit 0 up, the sum recombined by
the Hub; `CARRY` is the carry-out of the most-significant position (R83, R85, R86). -/
def adder {n : Nat} (A B : Word n) (C : Bit) : SumCarry n :=
  let a := splitter A
  let b := splitter B
  { SUM := hub (Vector.ofFn fun i : Fin n => (fullAdder (elem a i.val) (elem b i.val) (carryAt a b C i.val)).SUM)
    CARRY := carryAt a b C n }

end Sys2Proof.Machine
end

