-- ==== Sys2Proof/Machine/Operands.lean ====
section
/-! DEFINITION. The operand forms of the ALU: there are two operand ports and the constants wired inside, and no other
(spec/30_encoding.md R45, R47). Nothing is encoded, extended, scaled or shifted. -/

namespace Sys2Proof.Machine

open Sys2Proof

/-- The value on operand port `A` (R29). -/
def operandA (s : State) : Word s.width := s.A

/-- The value on operand port `B` (R29). -/
def operandB (s : State) : Word s.width := s.B

/-- The carry-in of ADD and SUB, "a constant wired inside the ALU, not a port or a field" (R45, R107). -/
def constCarryIn : Bit := 0

/-- The Word 1 that the Negator adds as its Adder's second operand (R90). -/
def constOne (n : Nat) : Word n := BitVec.ofNat n 1

/-- The Word 0 of the ALU's eighth OR-reduction slot (R108). -/
def constZero (n : Nat) : Word n := BitVec.ofNat n 0

end Sys2Proof.Machine
end

