-- ==== Sys2Proof/Machine/Selector.lean ====
section
/-! DEFINITION. The Selector Layer (spec/42_selector.md): Decoder and Switch. The document gives their functions, which
are normative (R72, R75), and not their gates; the spec's own netlists (R74, R76, decisions D5 and D4) stand beside
them. -/

namespace Sys2Proof.Machine

open Sys2Proof

/-- Decoder(w): the one-hot BitVector of length 2^w with its 1 at the index that the Hub gives (R72). -/
def decoder {w : Nat} (idx : BitVector w) : BitVector (2 ^ w) :=
  Vector.ofFn fun j => if j.val = (hub idx).toNat then 1 else 0

/-- Switch, also SWC: `A` where `S` is 1, the Word 0 where it is 0 (R75). -/
def switch {n : Nat} (A : Word n) (S : Bit) : Word n := if S = 1 then A else 0

/-- The literal of index bit `i` in the minterm of `j`: the bit itself where bit `i` of `j` is 1, else its complement
(R74). -/
def mintermLiteral {w : Nat} (idx : BitVector w) (j i : Nat) : Bit :=
  if j.testBit i then elem idx i else notGate (elem idx i)

/-- The left-nested AND of the literals 0 to `i` of the minterm of `j` (R74). -/
def mintermAnd {w : Nat} (idx : BitVector w) (j : Nat) : Nat → Bit
  | 0 => mintermLiteral idx j 0
  | i + 1 => andGate (mintermAnd idx j i) (mintermLiteral idx j (i + 1))

/-- The Decoder's minterm netlist (R74, decision D5). -/
def decoderNetlist {w : Nat} (idx : BitVector w) : BitVector (2 ^ w) :=
  Vector.ofFn fun j => mintermAnd idx j.val (w - 1)

/-- The Switch's netlist: one AND per lane, `S` fanned out to all lanes (R76, decision D4). -/
def switchNetlist {n : Nat} (A : Word n) (S : Bit) : Word n :=
  hub (Vector.ofFn fun i : Fin n => andGate (lane A i.val) S)

end Sys2Proof.Machine
end

