-- ==== Sys2Proof/Machine/DerivedArith.lean ====
section
/-! DEFINITION. The Derived Arithmetic Layer (spec/44_derived_arith.md): Negator, Subtractor and Multiplier, as wired. None
exposes a carry or an overflow (R28, decision D15). -/

namespace Sys2Proof.Machine

open Sys2Proof

/-- Negator(n): Adder(NOT(A), 1, carry-in 0), its carry-out unconnected; the 1 is the Adder's second operand, not its
carry-in (R90). -/
def negator {n : Nat} (A : Word n) : Word n := (adder (notGate A) (constOne n) constCarryIn).SUM

/-- The outer Adder inside the Subtractor, with the carry-out that has no port (R93, R95). -/
def subtractorAdder {n : Nat} (A B : Word n) : SumCarry n := adder A (negator B) constCarryIn

/-- Subtractor(n): Adder(A, Negator(B), carry-in 0), carry-out unconnected (R93). -/
def subtractor {n : Nat} (A B : Word n) : Word n := (subtractorAdder A B).SUM

/-- The shifted multiplicand `sh[i]`: shifted left by 1 from row to row and confined to `n` lanes (R97, R101). -/
def multiplicandAt {n : Nat} (A : Word n) : Nat → Word n
  | 0 => A
  | i + 1 => multiplicandAt A i <<< 1

/-- The partial product of row `i`: the shifted multiplicand through a Switch on bit `i` of the multiplier (R97). -/
def partialProduct {n : Nat} (A B : Word n) (i : Nat) : Word n :=
  switch (multiplicandAt A i) (elem (splitter B) i)

/-- The accumulator bus `slot0[i]` after row `i` (R97): row 0 is the partial product, each later row adds its own by an
Adder whose carry-out is unconnected (R102). Wiring between rows, not state (R100). -/
def slot0At {n : Nat} (A B : Word n) : Nat → Word n
  | 0 => partialProduct A B 0
  | i + 1 => (adder (slot0At A B i) (partialProduct A B (i + 1)) constCarryIn).SUM

/-- Multiplier(n): `slot0` after the last of its `n` rows (R97). -/
def multiplier {n : Nat} (A B : Word n) : Word n := slot0At A B (n - 1)

end Sys2Proof.Machine
end

