-- ==== Sys2Proof/Machine/Ops.lean ====
section
/-! DEFINITION. The named operations over State. There is no memory and no register to operate on (spec/20_memory.md R31,
spec/10_state.md R18): the operations drive and sample ports, present a `run` call, and record how it ended.
Taking a precondition failure is the one exception the hardware has (spec/60_exceptions.md R140); there is nothing to
return from and no return operation (R141). -/

namespace Sys2Proof.Machine

open Sys2Proof

/-- The output port `Y` sampled with the value `y`. -/
def State.setY (s : State) (y : Word s.width) : State := { s with Y := y }

/-- The environment drives the ALU's three input ports and presents no `run` call (R10, R151). -/
def State.present (s : State) (a b : Word s.width) (op : OpByte) : State :=
  { s with A := a, B := b, op := op, call := none }

/-- The environment presents a `run` call at the integer-valued interface (R131). -/
def State.presentCall (s : State) (c : Call) : State := { s with call := some c }

/-- The presented call has ended: it is no longer presented, and what it handed back is recorded. Nothing else changes:
a call leaves every component as it was (R141). -/
def State.recordAnswer (s : State) (r : CallRecord) : State := { s with call := none, result := some r }

/-- An ALU evaluation ends by showing its result on `Y`, its only output (R121); it cannot fail (R135). -/
def driveY (s : State) (y : Word s.width) : Host.Outcome State Fault Refusal := .next (s.setY y)

/-- TAKING A PRECONDITION FAILURE (R140): the one call is aborted, no output field exists, the failure is propagated to
the immediate caller, no state is saved, no mode or mask changes and control goes nowhere. The machine goes on: "the
next call behaves as if the failed one had not happened" (R141). -/
def takePreconditionFailure (c : Component) (reason : Fault) (s : State) : State :=
  s.recordAnswer { component := c, answer := .failed reason }

/-- What a `run` call hands back becomes the machine's outcome: outputs and failures are recorded and the machine goes
on; a refused input stays refused. -/
def finishCall (c : Component) (o : Host.Outcome Fields Fault Refusal) (s : State) : Host.Outcome State Fault Refusal :=
  match o with
  | .next outs => .next (s.recordAnswer { component := c, answer := .outputs outs })
  | .fault reason => .next (takePreconditionFailure c reason s)
  | .refused r => .refused r

end Sys2Proof.Machine
end

