-- ==== Sys2Proof/Machine/ArithFamily.lean ====
section
/-! DEFINITION. The meanings of the arithmetic opcodes and of the reserved one (spec/45_alu.md R116 to R119), over the units
of R107. No flag, borrow, carry or overflow is shown (R121, R125). -/

namespace Sys2Proof.Machine

open Sys2Proof

/-- ADD, `opc` = 4 (R116): the `SUM` of `Adder_N(A, B, 0)`; the carry-out is unconnected. -/
def execAdd (_ign : BitVec 5) (s : State) : Host.Outcome State Fault Refusal :=
  driveY s (adder (operandA s) (operandB s) constCarryIn).SUM

/-- SUB, `opc` = 5 (R117): the output of `Subtractor_N(A, B)`; the `B` port is the one negated. -/
def execSub (_ign : BitVec 5) (s : State) : Host.Outcome State Fault Refusal :=
  driveY s (subtractor (operandA s) (operandB s))

/-- MUL, `opc` = 6 (R118): the output of `Multiplier_N(A, B)`. -/
def execMul (_ign : BitVec 5) (s : State) : Host.Outcome State Fault Refusal :=
  driveY s (multiplier (operandA s) (operandB s))

/-- RSVD7, `opc` = 7, reserved (R119): the constant 0 of the padding slot; the evaluation succeeds, and `A` and `B` are
ignored. -/
def execRsvd7 (_ign : BitVec 5) (s : State) : Host.Outcome State Fault Refusal :=
  driveY s (constZero s.width)

end Sys2Proof.Machine
end

