-- ==== Sys2Proof/Machine/LogicFamily.lean ====
section
/-! DEFINITION. The meanings of the four logic opcodes (spec/45_alu.md R112 to R115): the unit of R107 whose output the
opcode selects (R110), shown on `Y`. That the whole datapath `alu` shows the same is a statement, not a definition. -/

namespace Sys2Proof.Machine

open Sys2Proof

/-- OR, `opc` = 0 (R112): `Y <- A | B`. The ignored bits have no effect (R50). -/
def execOr (_ign : BitVec 5) (s : State) : Host.Outcome State Fault Refusal :=
  driveY s (orGate (operandA s) (operandB s))

/-- NAND, `opc` = 1 (R113): `Y <- ~_N (A & B)`. -/
def execNand (_ign : BitVec 5) (s : State) : Host.Outcome State Fault Refusal :=
  driveY s (nandGate (operandA s) (operandB s))

/-- NOR, `opc` = 2 (R114): `Y <- ~_N (A | B)`. -/
def execNor (_ign : BitVec 5) (s : State) : Host.Outcome State Fault Refusal :=
  driveY s (norGate (operandA s) (operandB s))

/-- AND, `opc` = 3 (R115): `Y <- A & B`. -/
def execAnd (_ign : BitVec 5) (s : State) : Host.Outcome State Fault Refusal :=
  driveY s (andGate (operandA s) (operandB s))

end Sys2Proof.Machine
end

