-- ==== Sys2Proof/Machine/Dispatch.lean ====
section
/-! DEFINITION. One arm for each constructor of Instr, each one direct call of its meaning. -/

namespace Sys2Proof.Machine

open Sys2Proof

def exec (i : Instr) (s : State) : Host.Outcome State Fault Refusal :=
  match i with
  | .or ign => Sys2Proof.Machine.execOr ign s
  | .nand ign => Sys2Proof.Machine.execNand ign s
  | .nor ign => Sys2Proof.Machine.execNor ign s
  | .and ign => Sys2Proof.Machine.execAnd ign s
  | .add ign => Sys2Proof.Machine.execAdd ign s
  | .sub ign => Sys2Proof.Machine.execSub ign s
  | .mul ign => Sys2Proof.Machine.execMul ign s
  | .rsvd7 ign => Sys2Proof.Machine.execRsvd7 ign s

end Sys2Proof.Machine
end

