-- ==== Sys2Proof/Machine/Alu.lean ====
section
/-! DEFINITION. The ALU's datapath (spec/45_alu.md R105 to R109): decode, compute everything, gate, OR-reduce. The document
asks that this construction be kept (R110). -/

namespace Sys2Proof.Machine

open Sys2Proof

/-- Step 1: the 3 low bits of the 8-bit Splitter on the opcode port into a 3-bit Decoder (R46, R106). -/
def enableVector (op : OpByte) : BitVector 8 :=
  let opbits := splitter op
  decoder #v[elem opbits 0, elem opbits 1, elem opbits 2]

/-- Step 2: the seven function outputs, all computed in every evaluation (R107). -/
def aluFunctions {n : Nat} (A B : Word n) : Vector (Word n) 7 :=
  #v[orGate A B, nandGate A B, norGate A B, andGate A B, (adder A B constCarryIn).SUM, subtractor A B, multiplier A B]

/-- Step 3: each function through the Switch of its enable bit; slot 7 is the constant 0 and `en[7]` is connected to
nothing (R108, decision D7). -/
def aluSlots {n : Nat} (f : Vector (Word n) 7) (en : BitVector 8) : Vector (Word n) 8 :=
  #v[switch f[0] en[0], switch f[1] en[1], switch f[2] en[2], switch f[3] en[3], switch f[4] en[4], switch f[5] en[5],
    switch f[6] en[6], constZero n]

/-- Step 4: the OR tree, three levels of two-input ORs (R109, conflict C1, decision D6). -/
def orTree {n : Nat} (g : Vector (Word n) 8) : Word n :=
  orGate (orGate (orGate g[0] g[1]) (orGate g[2] g[3])) (orGate (orGate g[4] g[5]) (orGate g[6] g[7]))

/-- ALU(n): one evaluation of the whole datapath (R105). -/
def alu {n : Nat} (A B : Word n) (op : OpByte) : Word n := orTree (aluSlots (aluFunctions A B) (enableVector op))

/-- The whole ALU as one function, for reference (R111): the case over `k = op[2:0]`. No meaning and no evaluation calls
it; that `alu` computes it is a statement. -/
def aluReference {n : Nat} (A B : Word n) (op : OpByte) : Word n :=
  match op.getLsbD 2, op.getLsbD 1, op.getLsbD 0 with
  | false, false, false => A ||| B
  | false, false, true => ~~~(A &&& B)
  | false, true, false => ~~~(A ||| B)
  | false, true, true => A &&& B
  | true, false, false => A + B
  | true, false, true => A - B
  | true, true, false => A * B
  | true, true, true => 0

end Sys2Proof.Machine
end

