-- ==== Sys2Proof/Machine/Ports.lean ====
section
/-! DEFINITION. The ports of every component (spec/10_state.md R25 to R29). -/

namespace Sys2Proof.Machine

open Sys2Proof

/-- The input ports: the fields that a `run` mapping must hold (R25 to R29, R132). -/
def inputPorts : Component → List (PortName × PortType)
  | .not w => [(.A, .word w)]
  | .nand w | .and w | .or w | .nor w | .xor w | .xnor w => [(.A, .word w), (.B, .word w)]
  | .splitter n => [(.W, .word n)]
  | .hub n => [(.BITS, .bits n)]
  | .decoder n => [(.IDX, .bits n)]
  | .switch n => [(.A, .word n), (.S, .bit)]
  | .halfAdder => [(.A, .bit), (.B, .bit)]
  | .fullAdder => [(.A, .bit), (.B, .bit), (.C, .bit)]
  | .adder n => [(.A, .word n), (.B, .word n), (.C, .bit)]
  | .negator n => [(.A, .word n)]
  | .subtractor n | .multiplier n => [(.A, .word n), (.B, .word n)]
  | .alu n => [(.A, .word n), (.B, .word n), (.op, .word 8)]

/-- The output ports (R25 to R29). Only HalfAdder, FullAdder and Adder show a carry (R85); the ALU has one output and no
flag (R121). -/
def outputPorts : Component → List (PortName × PortType)
  | .not w | .nand w | .and w | .or w | .nor w | .xor w | .xnor w => [(.Y, .word w)]
  | .splitter n => [(.BITS, .bits n)]
  | .hub n => [(.W, .word n)]
  | .decoder n => [(.EN, .bits (2 ^ n))]
  | .switch n => [(.Y, .word n)]
  | .halfAdder | .fullAdder => [(.SUM, .bit), (.CARRY, .bit)]
  | .adder n => [(.SUM, .word n), (.CARRY, .bit)]
  | .negator n | .subtractor n | .multiplier n | .alu n => [(.Y, .word n)]

/-- The components whose `C` input is checked for {0, 1}: FullAdder and Adder, "exactly two components and one field
each" (R133). -/
def rangeChecksCarry : Component → Bool
  | .fullAdder => true
  | .adder _ => true
  | .not _ | .nand _ | .and _ | .or _ | .nor _ | .xor _ | .xnor _ => false
  | .splitter _ | .hub _ | .decoder _ | .switch _ | .halfAdder => false
  | .negator _ | .subtractor _ | .multiplier _ | .alu _ => false

end Sys2Proof.Machine
end

