-- ==== Sys2Proof/WellFormed.lean ====
section
/-! DEFINITION. The checks on syntax and on raw interface values. An `Instr` needs none: its one field has exactly the
five bits of the encoding, and no opcode byte is illegal (spec/30_encoding.md R44, R50). -/

namespace Sys2Proof

/-- A component can be built at every width of at least 1 (R5; R6 for the Decoder), and only there. -/
def Component.wf : Component → Bool
  | .not w | .nand w | .and w | .or w | .nor w | .xor w | .xnor w => decide (1 ≤ w)
  | .splitter n | .hub n | .decoder n | .switch n => decide (1 ≤ n)
  | .halfAdder | .fullAdder => true
  | .adder n | .negator n | .subtractor n | .multiplier n | .alu n => decide (1 ≤ n)

/-- The value is an integer in [0, 2^n - 1]: a Word of width `n` (R14). -/
def FieldValue.isWord (n : Nat) : FieldValue → Bool
  | .int v => decide (0 ≤ v ∧ v < 2 ^ n)
  | .bits _ => false

/-- The value is a non-negative integer, of any size: what a Splitter accepts and truncates (R67). -/
def FieldValue.isNonNegative : FieldValue → Bool
  | .int v => decide (0 ≤ v)
  | .bits _ => false

/-- The value is 0 or 1: a Bit (R13). -/
def FieldValue.isBit : FieldValue → Bool
  | .int v => decide (v = 0 ∨ v = 1)
  | .bits _ => false

/-- The value is a sequence of exactly `n` elements, each 0 or 1: a BitVector (R15). -/
def FieldValue.isBits (n : Nat) : FieldValue → Bool
  | .int _ => false
  | .bits l => decide (l.length = n) && l.all fun v => decide (v = 0 ∨ v = 1)

/-- The value lies in the type of the port. -/
def FieldValue.hasType (v : FieldValue) : PortType → Bool
  | .word n => v.isWord n
  | .bit => v.isBit
  | .bits n => v.isBits n

end Sys2Proof
end

