-- ==== Sys2Proof/Machine/Run.lean ====
section
/-! DEFINITION. The integer-valued interface `run(inputs) -> outputs` of all eighteen components (spec/10_state.md R24,
spec/60_exceptions.md R131 to R137): a wrapper that makes the two precondition checks, reads the fields, and calls the
typed component (R135). -/

namespace Sys2Proof.Machine

open Sys2Proof

/-- The value of a field in the mapping, if it is there. -/
def field : Fields → PortName → Option FieldValue
  | [], _ => none
  | (g, v) :: m, f => if g = f then some v else field m f

/-- The required fields that the mapping lacks, in the order of the port table (R132). -/
def absentFields (c : Component) (m : Fields) : List PortName :=
  ((inputPorts c).map Prod.fst).filter fun f => (field m f).isNone

/-- The field that a MissingField failure names, `f :: fs` being the absent ones: the one, where there is one; any of
them (free, U13) where there are several. -/
def namedMissing (c : Component) (m : Fields) (f : PortName) (fs : List PortName) : PortName :=
  match fs with
  | [] => f
  | _ :: _ => (f :: fs).getD (Config.missingFieldIndex c m % (fs.length + 1)) f

/-- The field `C` holds 0 or 1 (R133). -/
def carryInRange (m : Fields) : Bool :=
  match field m .C with
  | some v => v.isBit
  | none => false

/-- A Word read from a field that is not fed through a Splitter: an integer in [0, 2^n - 1], anything else refused
(R135, U1, U15). -/
def wordExact (n : Nat) (m : Fields) (f : PortName) : Option (Word n) :=
  match field m f with
  | some (.int v) => if (FieldValue.int v).isWord n then some (BitVec.ofInt n v) else none
  | _ => none

/-- A Word read from a field that a Splitter takes in: a non-negative integer, its low `n` bits used (R67, R88, decision
D22); a negative one refused (U10). -/
def wordTruncated (n : Nat) (m : Fields) (f : PortName) : Option (Word n) :=
  match field m f with
  | some (.int v) => if (FieldValue.int v).isNonNegative then some (BitVec.ofInt n v) else none
  | _ => none

/-- A Bit read from a field: 0 or 1, anything else refused (U8, U11). -/
def bitExact (m : Fields) (f : PortName) : Option Bit :=
  match field m f with
  | some (.int v) => if (FieldValue.int v).isBit then some (BitVec.ofInt 1 v) else none
  | _ => none

/-- A BitVector read from a field: a sequence of exactly `n` elements, each 0 or 1, anything else refused (R70, U3). -/
def bitsExact (n : Nat) (m : Fields) (f : PortName) : Option (BitVector n) :=
  match field m f with
  | some (.bits l) =>
    if (FieldValue.bits l).isBits n then some (Vector.ofFn fun i : Fin n => BitVec.ofInt 1 (l.getD i.val 0)) else none
  | _ => none

/-- A Word as the integer of an output field. -/
def ofWord {n : Nat} (w : Word n) : FieldValue := .int (w.toNat : Int)

/-- A BitVector as the bit sequence of an output field. -/
def ofBits {n : Nat} (v : BitVector n) : FieldValue := .bits (v.toList.map fun b => (b.toNat : Int))

/-- The two output fields of the adders. -/
def ofSumCarry {n : Nat} (r : SumCarry n) : Fields := [(.SUM, ofWord r.SUM), (.CARRY, ofWord r.CARRY)]

/-- A two-input gate of `w` lanes at the interface (R25, R64). -/
def runGate (w : Nat) (g : Word w → Word w → Word w) (m : Fields) : Option Fields := do
  let a ← wordExact w m .A
  let b ← wordExact w m .B
  some [(.Y, ofWord (g a b))]

/-- The typed component applied to the fields of the mapping, or `none` where a field holds a value the wrapper refuses.
Which fields truncate and which must be in range is R135 and decision D22. -/
def evaluate (c : Component) (m : Fields) : Option Fields :=
  match c with
  | .not w => do
    let a ← wordExact w m .A
    some [(.Y, ofWord (notGate a))]
  | .nand w => runGate w nandGate m
  | .and w => runGate w andGate m
  | .or w => runGate w orGate m
  | .nor w => runGate w norGate m
  | .xor w => runGate w xorGate m
  | .xnor w => runGate w xnorGate m
  | .splitter n => do
    let w ← wordTruncated n m .W
    some [(.BITS, ofBits (splitter w))]
  | .hub n => do
    let v ← bitsExact n m .BITS
    some [(.W, ofWord (hub v))]
  | .decoder n => do
    let v ← bitsExact n m .IDX
    some [(.EN, ofBits (decoder v))]
  | .switch n => do
    let a ← wordExact n m .A
    let s ← bitExact m .S
    some [(.Y, ofWord (switch a s))]
  | .halfAdder => do
    let a ← bitExact m .A
    let b ← bitExact m .B
    some (ofSumCarry (halfAdder a b))
  | .fullAdder => do
    let a ← bitExact m .A
    let b ← bitExact m .B
    let c ← bitExact m .C
    some (ofSumCarry (fullAdder a b c))
  | .adder n => do
    let a ← wordTruncated n m .A
    let b ← wordTruncated n m .B
    let c ← bitExact m .C
    some (ofSumCarry (adder a b c))
  | .negator n => do
    let a ← wordTruncated n m .A
    some [(.Y, ofWord (negator a))]
  | .subtractor n => do
    let a ← wordTruncated n m .A
    let b ← wordTruncated n m .B
    some [(.Y, ofWord (subtractor a b))]
  | .multiplier n => do
    let a ← wordTruncated n m .A
    let b ← wordTruncated n m .B
    some [(.Y, ofWord (multiplier a b))]
  | .alu n => do
    let a ← wordExact n m .A
    let b ← wordExact n m .B
    let op ← wordTruncated 8 m .op
    some [(.Y, ofWord (alu a b op))]

/-- `run(inputs)` (R132, R133, R135, R139): MissingField first, then InvalidRange, both before any computation; then the
typed component, or a refusal where a field holds a value to which the document gives no meaning. -/
def run (c : Component) (m : Fields) : Host.Outcome Fields Fault Refusal :=
  if c.wf then
    match absentFields c m with
    | f :: fs => .fault (.missingField (namedMissing c m f fs))
    | [] =>
      if rangeChecksCarry c && !carryInRange m then .fault (.invalidRange .C)
      else
        match evaluate c m with
        | some outs => .next outs
        | none => .refused (.outOfType c)
  else .refused (.zeroWidth c)

/-- The presented call is run and its end recorded; the ALU's ports are left alone (R38, R141). -/
def answerCall (c : Call) (s : State) : Host.Outcome State Fault Refusal :=
  finishCall c.component (run c.component c.inputs) s

end Sys2Proof.Machine
end

