-- ==== Sys2Proof/Machine/Step.lean ====
section
/-! DEFINITION. One step is one evaluation (spec/00_scope.md R10): of the `run` call that the environment presents, where it
presents one, else of the ALU on the values of its ports. Nothing is fetched (spec/20_memory.md R40): the instruction is
the opcode port's byte. -/

namespace Sys2Proof.Machine

open Sys2Proof

/-- One evaluation. -/
def step (s : State) : Host.Outcome State Fault Refusal :=
  match s.call with
  | none => exec (decode s.op) s
  | some c => answerCall c s

/-- The environment drives the opcode port with the instruction's byte and presents no `run` call, so that the next step
evaluates exactly that instruction (notes/assumptions/3.md). -/
def State.withFetchWord (s : State) (nbits w : Nat) : State :=
  { s with op := BitVec.ofNat 8 (w % 2 ^ nbits), call := none }

end Sys2Proof.Machine
end

