-- ==== Sys2Proof/Machine/Netlist.lean ====
section
/-! DEFINITION. The size and the depth of the netlists in NOT and NAND primitives (spec/40_gates.md R65,
spec/70_reset_and_hazards.md R157). Structural facts, non-normative and no timing (R156): no other definition of the
model depends on this file. Each definition follows the wiring of the component of the same name, with the spec's
netlists for Decoder, Switch, row adder and OR tree (decisions D4, D5, D6, D14). -/

namespace Sys2Proof.Machine

open Sys2Proof

/-- How many primitives of each kind a netlist has. -/
structure PrimCount where
  nots : Nat
  nands : Nat
  deriving DecidableEq, Repr

/-- Two netlists side by side. -/
def PrimCount.plus (p q : PrimCount) : PrimCount := { nots := p.nots + q.nots, nands := p.nands + q.nands }

/-- `k` copies of a netlist side by side. -/
def PrimCount.times (k : Nat) (p : PrimCount) : PrimCount := { nots := k * p.nots, nands := k * p.nands }

/-- All primitives. -/
def PrimCount.total (p : PrimCount) : Nat := p.nots + p.nands

/-- One lane of each gate, expanded to the primitives (R54, R58 to R62, R65). -/
def notCount : PrimCount := { nots := 1, nands := 0 }
def nandCount : PrimCount := { nots := 0, nands := 1 }
def andCount : PrimCount := nandCount.plus notCount
def orCount : PrimCount := (notCount.times 2).plus nandCount
def norCount : PrimCount := orCount.plus notCount
def xorCount : PrimCount := ((notCount.times 2).plus (andCount.times 2)).plus orCount
def xnorCount : PrimCount := xorCount.plus notCount
def halfAdderCount : PrimCount := xorCount.plus andCount
def fullAdderCount : PrimCount := (halfAdderCount.times 2).plus orCount
def adderCount (n : Nat) : PrimCount := fullAdderCount.times n
def negatorCount (n : Nat) : PrimCount := (notCount.times n).plus (adderCount n)
def subtractorCount (n : Nat) : PrimCount := (negatorCount n).plus (adderCount n)
def switchCount (n : Nat) : PrimCount := andCount.times n
def decoderCount (w : Nat) : PrimCount := (notCount.times w).plus (andCount.times (2 ^ w * (w - 1)))
def multiplierCount (n : Nat) : PrimCount := ((switchCount n).times n).plus ((adderCount n).times (n - 1))

/-- The seven function units, the Decoder, seven Switches and the seven Word-form ORs of the tree (R107 to R109). -/
def aluCount (n : Nat) : PrimCount :=
  let units := ((((orCount.plus nandCount).plus norCount).plus andCount).times n).plus
    (((adderCount n).plus (subtractorCount n)).plus (multiplierCount n))
  (units.plus (decoderCount Config.decoderWidth)).plus
    (((switchCount n).times Config.functionCount).plus ((orCount.times n).times (Config.slotCount - 1)))

/-- The primitives of a component instance (R65, R157); Splitter and Hub are wiring (R71). -/
def primCount : Component → PrimCount
  | .not w => notCount.times w
  | .nand w => nandCount.times w
  | .and w => andCount.times w
  | .or w => orCount.times w
  | .nor w => norCount.times w
  | .xor w => xorCount.times w
  | .xnor w => xnorCount.times w
  | .splitter _ | .hub _ => { nots := 0, nands := 0 }
  | .decoder w => decoderCount w
  | .switch n => switchCount n
  | .halfAdder => halfAdderCount
  | .fullAdder => fullAdderCount
  | .adder n => adderCount n
  | .negator n => negatorCount n
  | .subtractor n => subtractorCount n
  | .multiplier n => multiplierCount n
  | .alu n => aluCount n

/-- Depth: the number of primitives on the longest path that ends on a wire, every input port being at depth 0 and
wiring free (R157). A constant counts as an input. -/
def notDepth (a : Nat) : Nat := a + 1
def nandDepth (a b : Nat) : Nat := max a b + 1
def andDepth (a b : Nat) : Nat := notDepth (nandDepth a b)
def orDepth (a b : Nat) : Nat := nandDepth (notDepth a) (notDepth b)
def norDepth (a b : Nat) : Nat := notDepth (orDepth a b)
def xorDepth (a b : Nat) : Nat := orDepth (andDepth (notDepth a) b) (andDepth (notDepth b) a)
def xnorDepth (a b : Nat) : Nat := notDepth (xorDepth a b)

/-- The depths of (sum, carry). -/
def halfAdderDepth (a b : Nat) : Nat × Nat := (xorDepth a b, andDepth a b)
def fullAdderDepth (a b c : Nat) : Nat × Nat :=
  let h0 := halfAdderDepth a b
  let h1 := halfAdderDepth h0.1 c
  (h1.1, orDepth h0.2 h1.2)

/-- The depths of the sum lanes, bit 0 first, and of the carry-out, from the depths of the operand lanes. -/
def adderDepth : List Nat → List Nat → Nat → List Nat × Nat
  | a :: as, b :: bs, c =>
    let fa := fullAdderDepth a b c
    let rest := adderDepth as bs fa.2
    (fa.1 :: rest.1, rest.2)
  | _, _, c => ([], c)

/-- The lanes of a port of `n` wires. -/
def portDepth (n : Nat) : List Nat := List.replicate n 0
def negatorDepth (a : List Nat) : List Nat := (adderDepth (a.map notDepth) (portDepth a.length) 0).1
def subtractorDepth (a b : List Nat) : List Nat := (adderDepth a (negatorDepth b) 0).1
def switchDepth (a : List Nat) (s : Nat) : List Nat := a.map fun x => andDepth x s

/-- The multiplicand's lanes moved up by one, the constant 0 entering at lane 0 (R101). -/
def shiftDepth (sh : List Nat) : List Nat := 0 :: sh.dropLast

/-- The rows after row 0: the shifted multiplicand, the accumulator bus and the remaining multiplier bits (R97). -/
def multiplierRowsDepth : List Nat → List Nat → List Nat → List Nat
  | _, slot0, [] => slot0
  | sh, slot0, b :: bs =>
    let sh' := shiftDepth sh
    multiplierRowsDepth sh' (adderDepth slot0 (switchDepth sh' b) 0).1 bs

def multiplierDepth (a : List Nat) : List Nat → List Nat
  | [] => []
  | b :: bs => multiplierRowsDepth a (switchDepth a b) bs

/-- The minterm netlist: complement, then `w - 1` left-nested ANDs (R74). -/
def decoderDepth (w : Nat) : Nat := (w - 1).rec (notDepth 0) fun _ d => andDepth d (notDepth 0)

/-- The deepest of a list of wires. -/
def deepest (l : List Nat) : Nat := l.foldl max 0

/-- The ALU: each function through its Switch, then the three OR levels (R107 to R109). -/
def aluDepth (n : Nat) : Nat :=
  let p := portDepth n
  let gate (f : List Nat) : List Nat := switchDepth f (decoderDepth Config.decoderWidth)
  let ors (f g : List Nat) : List Nat := List.zipWith orDepth f g
  let f0 := gate (List.zipWith orDepth p p)
  let f1 := gate (List.zipWith nandDepth p p)
  let f2 := gate (List.zipWith norDepth p p)
  let f3 := gate (List.zipWith andDepth p p)
  let f4 := gate (adderDepth p p 0).1
  let f5 := gate (subtractorDepth p p)
  let f6 := gate (multiplierDepth p p)
  deepest (ors (ors (ors f0 f1) (ors f2 f3)) (ors (ors f4 f5) (ors f6 p)))

/-- The longest structural path from an input port to each output port of a component instance (R65, R157). -/
def longestPath : Component → List (PortName × Nat)
  | .not _ => [(.Y, notDepth 0)]
  | .nand _ => [(.Y, nandDepth 0 0)]
  | .and _ => [(.Y, andDepth 0 0)]
  | .or _ => [(.Y, orDepth 0 0)]
  | .nor _ => [(.Y, norDepth 0 0)]
  | .xor _ => [(.Y, xorDepth 0 0)]
  | .xnor _ => [(.Y, xnorDepth 0 0)]
  | .splitter _ => [(.BITS, 0)]
  | .hub _ => [(.W, 0)]
  | .decoder w => [(.EN, decoderDepth w)]
  | .switch _ => [(.Y, andDepth 0 0)]
  | .halfAdder => [(.SUM, (halfAdderDepth 0 0).1), (.CARRY, (halfAdderDepth 0 0).2)]
  | .fullAdder => [(.SUM, (fullAdderDepth 0 0 0).1), (.CARRY, (fullAdderDepth 0 0 0).2)]
  | .adder n =>
    let r := adderDepth (portDepth n) (portDepth n) 0
    [(.SUM, deepest r.1), (.CARRY, r.2)]
  | .negator n => [(.Y, deepest (negatorDepth (portDepth n)))]
  | .subtractor n => [(.Y, deepest (subtractorDepth (portDepth n) (portDepth n)))]
  | .multiplier n => [(.Y, deepest (multiplierDepth (portDepth n) (portDepth n)))]
  | .alu n => [(.Y, aluDepth n)]

end Sys2Proof.Machine
end

