-- ==== Sys2Proof/Safety.lean ====
section
/-! DEFINITION. What counts as a good state, as a caller that keeps its duties, as a value with a meaning and as the same end of
a call, in the terms the statements use. -/

namespace Sys2Proof.Machine

open Sys2Proof

/-- The output port shows the function of the input ports: "Every output is, at all times, the function of the current
inputs" (R147, R149; only settled values are observable, R153). -/
abbrev State.settled (s : State) : Prop := s.Y = alu s.A s.B s.op

/-- The mapping has exactly the fields of the port list, in its order, each with a value of the port's type. -/
def fieldsMatch : List (PortName × PortType) → Fields → Bool
  | [], [] => true
  | (f, t) :: ps, (g, v) :: m => decide (f = g) && v.hasType t && fieldsMatch ps m
  | [], _ :: _ => false
  | _ :: _, [] => false

/-- A record that a call of a component can leave: all of its output ports, each in its type (R14, R25 to R29), or one of
the two failures, naming a field for which the component makes that check (R132, R133), and no output (R140). -/
def CallRecord.wf (r : CallRecord) : Bool :=
  r.component.wf &&
    match r.answer with
    | .outputs m => fieldsMatch (outputPorts r.component) m
    | .failed (.missingField f) => ((inputPorts r.component).map Prod.fst).contains f
    | .failed (.invalidRange f) => decide (f = .C) && rangeChecksCarry r.component

/-- The instance can be built (R5: N >= 1) and what the environment was handed back is well formed. -/
def State.wf (s : State) : Bool :=
  decide (1 ≤ s.width) &&
    match s.result with
    | none => true
    | some r => r.wf

/-- The invariant of the machine: well formed and settled. -/
abbrev State.Inv (s : State) : Prop := s.wf = true ∧ s.settled

/-- The caller's duties at the integer-valued interface: "supply every required field, keep `C` in {0, 1}, and keep Words
within [0, 2^N - 1]" (R151), of a component that can be built. -/
def callerDuties (c : Component) (m : Fields) : Bool :=
  c.wf && (inputPorts c).all fun p =>
    match field m p.1 with
    | some v => v.hasType p.2
    | none => false

/-- The integer fields that a Splitter takes in, of which the interface uses the low bits: "Splitter itself, the `A` and `B` of
Adder, Negator, Subtractor, Multiplier, and the ALU's `op`" (decision D22, R67, R88, U10; notes/assumptions/7.md). -/
def splitterFed : Component → List PortName
  | .splitter _ => [.W]
  | .adder _ | .subtractor _ | .multiplier _ => [.A, .B]
  | .negator _ => [.A]
  | .alu _ => [.op]
  | .not _ | .nand _ | .and _ | .or _ | .nor _ | .xor _ | .xnor _ => []
  | .hub _ | .decoder _ | .switch _ | .halfAdder | .fullAdder => []

/-- The interface gives the value of field `f`, a port of type `t`, a meaning: it is in the port's type, or a non-negative
integer that a Splitter truncates (D22). Every other value is refused (R135). -/
def fieldAccepted (c : Component) (f : PortName) (t : PortType) (v : FieldValue) : Bool :=
  v.hasType t || ((splitterFed c).contains f && v.isNonNegative)

/-- Two records say the same of the same component, but for the field that a MissingField failure names: "a claim may rely
only on the call fails with MissingField" (U13, notes/assumptions/6.md). -/
def CallRecord.sameButForMissingName (r q : CallRecord) : Bool :=
  decide (r.component = q.component) &&
    match r.answer, q.answer with
    | .failed (.missingField _), .failed (.missingField _) => true
    | a, b => decide (a = b)

/-- A presented call ends the same way in both states: it is refused by the same name, or it is recorded in both, with
records that agree but for the name of a missing field, and nothing else of either state changes. -/
def endsAlike (c : Call) (s t : State) : Prop :=
  (∃ r q : CallRecord, r.sameButForMissingName q = true ∧
    step (s.presentCall c) = .next (s.recordAnswer r) ∧ step (t.presentCall c) = .next (t.recordAnswer q)) ∨
  (∃ x : Refusal, step (s.presentCall c) = .refused x ∧ step (t.presentCall c) = .refused x)

end Sys2Proof.Machine
end

