-- ==== Sys2Proof/Certificates/Slice0/Obligations.lean ====
section
/-! DEFINITION. The statements for the provers. Each formalises the rules of spec/ that its docstring names. -/

open Sys2Proof Sys2Proof.Machine

/-! ## The opcode byte -/

/-- Decoding an encoded instruction gives it back, with every value of its ignored bits, as a byte and as a sequence of
bytes; encoding a decoded byte gives the byte back, so no bit of the byte is dropped; and the sequences that are no
instruction, the empty one and every one longer than a byte, are rejected by name, so that the encodings are exactly what
decodes (R43, R48, R50, R51). The names of the two rejections are the model's. -/
def Obligations.DecodeEncodeRoundTrip : Prop :=
  (∀ i : Instr, decode (encode i) = i ∧ decodeBytes (encodeBytes i) = .ok i) ∧
  (∀ b : OpByte, encode (decode b) = b) ∧
  (∀ (l : List OpByte) (i : Instr), decodeBytes l = .ok i ↔ l = encodeBytes i) ∧
  decodeBytes [] = .error .noByte ∧
  (∀ (a b : OpByte) (l : List OpByte), decodeBytes (a :: b :: l) = .error .longerThanOneByte)

/-- Words written out from the bit patterns of R48 (bits 2:0), bits 7:3 zero, one and mixed, decode to their rows. -/
def Obligations.SpecWordsDecode : Prop :=
  decode 0b00000000#8 = .or 0b00000#5 ∧ decode 0b00000001#8 = .nand 0b00000#5 ∧
  decode 0b11111010#8 = .nor 0b11111#5 ∧ decode 0b00000011#8 = .and 0b00000#5 ∧
  decode 0b00001100#8 = .add 0b00001#5 ∧ decode 0b00000101#8 = .sub 0b00000#5 ∧
  decode 0b10000110#8 = .mul 0b10000#5 ∧ decode 0b00010111#8 = .rsvd7 0b00010#5

/-- Every byte decodes, to the row of R48 that its low three bits name; bits 7:3 are carried along and select nothing
(R44, R48, R50). -/
def Obligations.EveryByteSelectsItsRow : Prop :=
  ∀ b : OpByte,
    (b &&& 0x07#8 = 0x00#8 ↔ decode b = .or (ignField b)) ∧ (b &&& 0x07#8 = 0x01#8 ↔ decode b = .nand (ignField b)) ∧
    (b &&& 0x07#8 = 0x02#8 ↔ decode b = .nor (ignField b)) ∧ (b &&& 0x07#8 = 0x03#8 ↔ decode b = .and (ignField b)) ∧
    (b &&& 0x07#8 = 0x04#8 ↔ decode b = .add (ignField b)) ∧ (b &&& 0x07#8 = 0x05#8 ↔ decode b = .sub (ignField b)) ∧
    (b &&& 0x07#8 = 0x06#8 ↔ decode b = .mul (ignField b)) ∧ (b &&& 0x07#8 = 0x07#8 ↔ decode b = .rsvd7 (ignField b))

/-- The enable vector is one-hot at `op mod 8`, for every opcode byte (R46). -/
def Obligations.EnableVectorIsOneHot : Prop :=
  ∀ (op : OpByte) (j : Fin 8), (enableVector op)[j] = if j.val = op.toNat % 8 then 1 else 0

/-- A step with no `run` call presented is the meaning of the instruction that the opcode port's byte decodes to, with
nothing around it; and a byte driven onto the port is the instruction that the next step evaluates. R10 and R40 say that an
evaluation is one function application and that nothing is fetched; that a step is one evaluation of the ports, and that
`withFetchWord` stands for the environment's driving of the opcode port, is the MODEL's choice (DESIGN CHOICE,
notes/assumptions/3.md; notes/assumptions/4.md for the presented call). -/
def Obligations.StepRunsTheOpcode : Prop :=
  (∀ s : State, s.call = none → step s = exec (decode s.op) s) ∧
  (∀ (s : State) (i : Instr),
    step (s.withFetchWord 8 (encode i).toNat) = exec i (s.withFetchWord 8 (encode i).toNat))

/-! ## The eight opcodes: what each shows on `Y`, everything else as it was -/

/-- R112. The state after is the state before with `Y` at `A | B` (no flag, no failure, nothing else changed); bits 2:0 of
the byte are 000; the corner cases and the example of the rule, on the datapath. -/
def Obligations.OrOpcode : Prop :=
  (∀ (ign : BitVec 5) (s : State), exec (.or ign) s = .next (s.setY (s.A ||| s.B))) ∧
  (∀ ign : BitVec 5, encode (.or ign) &&& 0x07#8 = 0x00#8) ∧
  (∀ (n : Nat) (A : Word n), alu A 0 0x00 = A ∧ alu A A 0x00 = A ∧ alu A (BitVec.allOnes n) 0x00 = BitVec.allOnes n) ∧
  alu (200 : Word 8) 45 0x00 = 237

/-- R113. `Y` at the N-bit complement of `A & B`, which is `(2^N - 1) - (A & B)`; the corner cases and the example. -/
def Obligations.NandOpcode : Prop :=
  (∀ (ign : BitVec 5) (s : State), exec (.nand ign) s = .next (s.setY (~~~(s.A &&& s.B))) ∧
    (~~~(s.A &&& s.B)).toNat = (2 ^ s.width - 1) - (s.A &&& s.B).toNat) ∧
  (∀ ign : BitVec 5, encode (.nand ign) &&& 0x07#8 = 0x01#8) ∧
  (∀ (n : Nat) (A : Word n), alu A A 0x01 = ~~~A ∧ alu A 0 0x01 = BitVec.allOnes n ∧
    alu (BitVec.allOnes n) (BitVec.allOnes n) 0x01 = 0) ∧
  alu (200 : Word 8) 45 0x01 = 247

/-- R114. `Y` at the N-bit complement of `A | B`, which is `(2^N - 1) - (A | B)`; the corner cases and the example. -/
def Obligations.NorOpcode : Prop :=
  (∀ (ign : BitVec 5) (s : State), exec (.nor ign) s = .next (s.setY (~~~(s.A ||| s.B))) ∧
    (~~~(s.A ||| s.B)).toNat = (2 ^ s.width - 1) - (s.A ||| s.B).toNat) ∧
  (∀ ign : BitVec 5, encode (.nor ign) &&& 0x07#8 = 0x02#8) ∧
  (∀ (n : Nat) (A : Word n), alu A A 0x02 = ~~~A ∧ alu (0 : Word n) 0 0x02 = BitVec.allOnes n ∧
    alu A (BitVec.allOnes n) 0x02 = 0) ∧
  alu (200 : Word 8) 45 0x02 = 18

/-- R115. `Y` at `A & B`; the corner cases and the example. -/
def Obligations.AndOpcode : Prop :=
  (∀ (ign : BitVec 5) (s : State), exec (.and ign) s = .next (s.setY (s.A &&& s.B))) ∧
  (∀ ign : BitVec 5, encode (.and ign) &&& 0x07#8 = 0x03#8) ∧
  (∀ (n : Nat) (A : Word n), alu A 0 0x03 = 0 ∧ alu A A 0x03 = A ∧ alu A (BitVec.allOnes n) 0x03 = A) ∧
  alu (200 : Word 8) 45 0x03 = 8

/-- R116. `Y` at `(A + B) mod 2^N`, the `SUM` of the Adder at carry-in 0; a sum of 2^N or more wraps with no indication,
since nothing but `Y` changes; the corner cases and the examples. -/
def Obligations.AddOpcode : Prop :=
  (∀ (ign : BitVec 5) (s : State), ∃ y : Word s.width, exec (.add ign) s = .next (s.setY y) ∧
    y.toNat = (s.A.toNat + s.B.toNat) % 2 ^ s.width ∧ y = (adder s.A s.B 0).SUM) ∧
  (∀ ign : BitVec 5, encode (.add ign) &&& 0x07#8 = 0x04#8) ∧
  (∀ (n : Nat) (A : Word n), alu A 0 0x04 = A ∧ alu (BitVec.allOnes n) 1 0x04 = 0 ∧
    (alu A A 0x04).toNat = 2 * A.toNat % 2 ^ n) ∧
  alu (200 : Word 8) 45 0x04 = 245 ∧ alu (200 : Word 8) 100 0x04 = 44

/-- R117. `Y` at `(A - B) mod 2^N`, the output of the Subtractor; no borrow or overflow is shown; the corner cases and the
examples. -/
def Obligations.SubOpcode : Prop :=
  (∀ (ign : BitVec 5) (s : State), ∃ y : Word s.width, exec (.sub ign) s = .next (s.setY y) ∧
    (y.toNat : Int) = ((s.A.toNat : Int) - (s.B.toNat : Int)) % 2 ^ s.width ∧ y = subtractor s.A s.B) ∧
  (∀ ign : BitVec 5, encode (.sub ign) &&& 0x07#8 = 0x05#8) ∧
  (∀ (n : Nat) (A B : Word n), alu A 0 0x05 = A ∧ alu A A 0x05 = 0 ∧
    (alu 0 B 0x05).toNat = (2 ^ n - B.toNat) % 2 ^ n ∧
    alu 0 (BitVec.ofNat n (2 ^ (n - 1))) 0x05 = BitVec.ofNat n (2 ^ (n - 1))) ∧
  alu (200 : Word 8) 45 0x05 = 155 ∧ alu (45 : Word 8) 200 0x05 = 101

/-- R118. `Y` at `(A * B) mod 2^N`, the output of the Multiplier; no high half and no overflow is shown; the corner cases
and the examples. -/
def Obligations.MulOpcode : Prop :=
  (∀ (ign : BitVec 5) (s : State), ∃ y : Word s.width, exec (.mul ign) s = .next (s.setY y) ∧
    y.toNat = s.A.toNat * s.B.toNat % 2 ^ s.width ∧ y = multiplier s.A s.B) ∧
  (∀ ign : BitVec 5, encode (.mul ign) &&& 0x07#8 = 0x06#8) ∧
  (∀ (n : Nat) (A : Word n), alu A 0 0x06 = 0 ∧ alu A 1 0x06 = A ∧
    (∀ k : Nat, (alu A (BitVec.ofNat n (2 ^ k)) 0x06).toNat = (A.toNat <<< k) % 2 ^ n) ∧
    alu (BitVec.allOnes n) (BitVec.allOnes n) 0x06 = 1) ∧
  alu (200 : Word 8) 45 0x06 = 40 ∧ alu (13 : Word 8) 19 0x06 = 247

/-- R119. The reserved opcode succeeds with `Y` at 0, whatever `A`, `B` and the previous output are: its enable line is
connected to no Switch, every slot is 0, and so is their OR; the example. -/
def Obligations.ReservedOpcodeYieldsZero : Prop :=
  (∀ (ign : BitVec 5) (s : State), exec (.rsvd7 ign) s = .next (s.setY 0)) ∧
  (∀ ign : BitVec 5, encode (.rsvd7 ign) &&& 0x07#8 = 0x07#8) ∧
  (∀ (n : Nat) (A B : Word n) (ign : BitVec 5),
    (enableVector (encode (.rsvd7 ign)))[7] = 1 ∧
    (∀ k : Fin 8, (aluSlots (aluFunctions A B) (enableVector (encode (.rsvd7 ign))))[k] = 0) ∧
    alu A B (encode (.rsvd7 ign)) = 0) ∧
  alu (200 : Word 8) 45 0x07 = 0

/-! ## The ALU as a whole -/

/-- R110. The gated and OR-reduced datapath is a multiplexer: with `k = op mod 8` it shows `f[k]` for `k <= 6` and 0 for
`k = 7`. -/
def Obligations.DatapathIsMultiplexer : Prop :=
  ∀ (n : Nat) (A B : Word n) (op : OpByte),
    (∀ k : Fin 7, op.toNat % 8 = k.val → alu A B op = (aluFunctions A B)[k]) ∧ (op.toNat % 8 = 7 → alu A B op = 0)

/-- R111. The gate-level datapath (Splitter, Decoder, seven units, Switches, OR tree) computes the reference function, at
every width and for every opcode byte. -/
def Obligations.DatapathComputesReference : Prop :=
  ∀ (n : Nat) (A B : Word n) (op : OpByte), alu A B op = aluReference A B op

/-- Two designs agree: selecting one unit by decoding the opcode (the step) shows what the whole datapath shows, and
changes nothing else (R105 to R109 against R48). States with a `run` call presented (notes/assumptions/4.md) are in
AnsweredCallIsRecorded, FailedCallLeavesNoTrace and OnlyCallsAreRefused. -/
def Obligations.StepShowsTheDatapath : Prop :=
  ∀ s : State, s.call = none → step s = .next (s.setY (alu s.A s.B s.op))

/-- R109. The three-level tree computes the bitwise OR of all eight slots. -/
def Obligations.OrTreeIsEightWayOr : Prop :=
  ∀ (n : Nat) (g : Vector (Word n) 8), orTree g = g[0] ||| g[1] ||| g[2] ||| g[3] ||| g[4] ||| g[5] ||| g[6] ||| g[7]

/-- R120, with the examples of the rule. -/
def Obligations.UpperOpcodeBitsIgnored : Prop :=
  (∀ (n : Nat) (A B : Word n) (op : OpByte), alu A B op = alu A B (BitVec.ofNat 8 (op.toNat % 8))) ∧
  alu (200 : Word 8) 45 12 = 245 ∧ alu (200 : Word 8) 45 255 = 0

/-- R124, at the opcodes: every result is a Word reduced modulo 2^N; ADD and MUL are commutative and associative, MUL
distributes over ADD, and `SUB A, B` is the unique `Y` with `ADD Y, B = A`. -/
def Obligations.ArithmeticIsTheRingModuloTwoToTheN : Prop :=
  ∀ (n : Nat) (A B C : Word n),
    alu A B 4 = alu B A 4 ∧ alu A B 6 = alu B A 6 ∧
    alu (alu A B 4) C 4 = alu A (alu B C 4) 4 ∧ alu (alu A B 6) C 6 = alu A (alu B C 6) 6 ∧
    alu A (alu B C 4) 6 = alu (alu A B 6) (alu A C 6) 4 ∧
    (∀ Y : Word n, alu Y B 4 = A ↔ Y = alu A B 5) ∧
    (alu A B 4).toNat = (A.toNat + B.toNat) % 2 ^ n ∧
    ((alu A B 5).toNat : Int) = ((A.toNat : Int) - (B.toNat : Int)) % 2 ^ n ∧
    (alu A B 6).toNat = A.toNat * B.toNat % 2 ^ n

/-- R125. When each of ADD, SUB and MUL wraps, and the extremes at N = 8; that nothing records it is in the statements of
the opcodes. -/
def Obligations.OverflowWraps : Prop :=
  (∀ (n : Nat) (A B : Word n),
    ((alu A B 4).toNat ≠ A.toNat + B.toNat ↔ 2 ^ n ≤ A.toNat + B.toNat) ∧
    (((alu A B 5).toNat : Int) ≠ (A.toNat : Int) - (B.toNat : Int) ↔ A.toNat < B.toNat) ∧
    ((alu A B 6).toNat ≠ A.toNat * B.toNat ↔ 2 ^ n ≤ A.toNat * B.toNat)) ∧
  alu (255 : Word 8) 255 4 = 254 ∧ alu (0 : Word 8) 255 5 = 1 ∧ alu (255 : Word 8) 255 6 = 1 ∧ alu (16 : Word 8) 16 6 = 0

/-- R129, the identities (a) to (i) across opcodes; and, from R121, `ADD`'s lost carry recovered from operands and result. -/
def Obligations.IdentitiesAcrossOpcodes : Prop :=
  ∀ (n : Nat) (A B : Word n),
    alu A B 1 = ~~~(alu A B 3) ∧ alu A B 2 = ~~~(alu A B 0) ∧
    alu (alu A B 0) (alu A B 3) 4 = alu A B 4 ∧
    alu (alu A B 4) B 5 = A ∧ alu (alu A B 5) B 4 = A ∧ alu 0 (alu 0 A 5) 5 = A ∧
    alu (alu A A 1) 1 4 = alu 0 A 5 ∧ alu A B 6 = alu B A 6 ∧
    alu A (alu B 1 4) 6 = alu (alu A B 6) A 4 ∧
    ((adder A B 0).CARRY = 1 ↔ (alu A B 4).toNat < A.toNat)

/-- R126 and R128: read as two's-complement signed numbers, ADD, SUB and MUL give the signed result modulo 2^N, silently;
the numbers that the rules quote. -/
def Obligations.SignedReadingIsModular : Prop :=
  (∀ (n : Nat) (A B : Word n),
    (alu A B 4).toInt = (A.toInt + B.toInt).bmod (2 ^ n) ∧ (alu A B 5).toInt = (A.toInt - B.toInt).bmod (2 ^ n) ∧
    (alu A B 6).toInt = (A.toInt * B.toInt).bmod (2 ^ n) ∧ alu A 0 6 = 0 ∧ alu 0 B 6 = 0) ∧
  alu (3 : Word 8) 253 6 = 247 ∧ alu (253 : Word 8) 3 6 = 247 ∧ alu (253 : Word 8) 253 6 = 9 ∧
  alu (128 : Word 8) 255 6 = 128 ∧ alu (127 : Word 8) 1 4 = 128 ∧ alu (128 : Word 8) 1 5 = 127

/-! ## Invariants, reset and independence of evaluations -/

/-- The state after reset is well formed and settled (R149: with A = B = op = 0 the ALU's `Y` is `OR(0, 0) = 0`), at every
width of at least 1. That the input ports show 0, and the width 8, are the model's choices (notes/assumptions/1.md, 2.md). -/
def Obligations.ResetMeetsTheInvariant : Prop :=
  State.reset.Inv ∧ ∀ n : Nat, 1 ≤ n → (State.resetAt n).Inv

/-- Every step keeps the invariant: the width is that of an instance that can be built, every record that the interface
hands back has exactly the component's output ports with values of their types or one of the two failures of that
component, and the output port shows the datapath's function of the input ports (R14, R86, R136, R140, R147, R153). -/
def Obligations.StepKeepsTheInvariant : Prop :=
  ∀ s t : State, s.Inv → step s = .next t → t.Inv

/-- Nothing observed in one evaluation depends on an earlier one (R23, R37, R147): what `Y` and the interface's record held
before changes nothing of an evaluation of the ALU, evaluating again on the same ports changes nothing (R35), and how a
presented call ends, by a record or by a refusal, depends on the call alone: not on the width, the ports, `Y` or the record of
the state it is presented in. Which of several missing fields a failure names is no part of it (U13, notes/assumptions/6.md).
That evaluations and calls are steps is the model's choice (notes/assumptions/3.md, 4.md). -/
def Obligations.EvaluationsAreIndependent : Prop :=
  (∀ (s : State) (y : Word s.width), s.call = none → step (s.setY y) = step s) ∧
  (∀ (s t : State) (r : CallRecord), s.call = none → step s = .next t →
    step (s.recordAnswer r) = .next (t.recordAnswer r) ∧ step t = .next t) ∧
  (∀ (c : Call) (s t : State), endsAlike c s t)

/-- No step of the machine ends in a fault, and a step is refused exactly where a `run` call is presented that `run` refuses,
by the same name: no opcode and no operand value stops an evaluation of the ALU (R135, R138). That a failed call is recorded
and the machine goes on, so that no step faults, is the model's reading of R140 and R141 (DEDUCED, notes/assumptions/5.md);
that a call is presented to a step is its choice (notes/assumptions/4.md). -/
def Obligations.OnlyCallsAreRefused : Prop :=
  (∀ (s : State) (r : Fault), step s ≠ .fault r) ∧ (∀ (s : State) (r : Refusal), step s = .refused r → s.call ≠ none) ∧
  (∀ (s : State) (c : Call) (r : Refusal),
    step (s.presentCall c) = .refused r ↔ run c.component c.inputs = .refused r)

/-! ## Gates -/

/-- R55, the lane rule, for all seven gates. -/
def Obligations.GatesActLaneByLane : Prop :=
  ∀ (w : Nat) (A B : Word w) (i : Nat), i < w →
    lane (notGate A) i = notGate (lane A i) ∧ lane (nandGate A B) i = nandGate (lane A i) (lane B i) ∧
    lane (andGate A B) i = andGate (lane A i) (lane B i) ∧ lane (orGate A B) i = orGate (lane A i) (lane B i) ∧
    lane (norGate A B) i = norGate (lane A i) (lane B i) ∧ lane (xorGate A B) i = xorGate (lane A i) (lane B i) ∧
    lane (xnorGate A B) i = xnorGate (lane A i) (lane B i)

/-- R63, the complete truth tables on Bits, entry by entry and as the table `gateAlgebra` row by row, and each structural
definition equal to its closed form at every width. -/
def Obligations.GatesMatchTruthTables : Prop :=
  gateAlgebra = [gateRow 0 0, gateRow 0 1, gateRow 1 0, gateRow 1 1] ∧
  notAlgebra = [(0, notGate 0), (1, notGate 1)] ∧
  (notGate (0 : Bit) = 1 ∧ notGate (1 : Bit) = 0) ∧
  (nandGate (0 : Bit) 0 = 1 ∧ nandGate (0 : Bit) 1 = 1 ∧ nandGate (1 : Bit) 0 = 1 ∧ nandGate (1 : Bit) 1 = 0) ∧
  (andGate (0 : Bit) 0 = 0 ∧ andGate (0 : Bit) 1 = 0 ∧ andGate (1 : Bit) 0 = 0 ∧ andGate (1 : Bit) 1 = 1) ∧
  (orGate (0 : Bit) 0 = 0 ∧ orGate (0 : Bit) 1 = 1 ∧ orGate (1 : Bit) 0 = 1 ∧ orGate (1 : Bit) 1 = 1) ∧
  (norGate (0 : Bit) 0 = 1 ∧ norGate (0 : Bit) 1 = 0 ∧ norGate (1 : Bit) 0 = 0 ∧ norGate (1 : Bit) 1 = 0) ∧
  (xorGate (0 : Bit) 0 = 0 ∧ xorGate (0 : Bit) 1 = 1 ∧ xorGate (1 : Bit) 0 = 1 ∧ xorGate (1 : Bit) 1 = 0) ∧
  (xnorGate (0 : Bit) 0 = 1 ∧ xnorGate (0 : Bit) 1 = 0 ∧ xnorGate (1 : Bit) 0 = 0 ∧ xnorGate (1 : Bit) 1 = 1) ∧
  (∀ (w : Nat) (A B : Word w),
    (notGate A).toNat = (2 ^ w - 1) - A.toNat ∧ (nandGate A B).toNat = (2 ^ w - 1) - (A &&& B).toNat ∧
    andGate A B = A &&& B ∧ orGate A B = A ||| B ∧ (norGate A B).toNat = (2 ^ w - 1) - (A ||| B).toNat ∧
    xorGate A B = A ^^^ B ∧ (xnorGate A B).toNat = (2 ^ w - 1) - (A ^^^ B).toNat)

/-- The corner cases and the examples of the seven gates (R56 to R62), at every width. -/
def Obligations.GateCornerCases : Prop :=
  (∀ (w : Nat) (A B : Word w),
    (notGate (0 : Word w) = BitVec.allOnes w ∧ notGate (BitVec.allOnes w) = 0 ∧ notGate (notGate A) = A) ∧
    (nandGate A A = notGate A ∧ nandGate A 0 = BitVec.allOnes w ∧ nandGate A (BitVec.allOnes w) = notGate A ∧
      nandGate A B = nandGate B A) ∧
    (andGate A 0 = 0 ∧ andGate A (BitVec.allOnes w) = A ∧ andGate A A = A ∧ andGate A B = andGate B A) ∧
    (orGate A 0 = A ∧ orGate A (BitVec.allOnes w) = BitVec.allOnes w ∧ orGate A A = A ∧ orGate A B = orGate B A ∧
      ∀ C : Word w, orGate (orGate A B) C = orGate A (orGate B C)) ∧
    (norGate A A = notGate A ∧ norGate (0 : Word w) 0 = BitVec.allOnes w ∧ norGate A (BitVec.allOnes w) = 0 ∧
      norGate A B = norGate B A) ∧
    (xorGate A A = 0 ∧ xorGate A 0 = A ∧ xorGate A (BitVec.allOnes w) = notGate A ∧ xorGate A B = xorGate B A ∧
      andGate (andGate (notGate A) B) (andGate (notGate B) A) = 0) ∧
    (xnorGate A A = BitVec.allOnes w ∧ xnorGate A 0 = notGate A ∧ xnorGate A B = xnorGate B A)) ∧
  notGate (200 : Word 8) = 55 ∧ nandGate (200 : Word 8) 45 = 247 ∧ andGate (200 : Word 8) 45 = 8 ∧
  orGate (200 : Word 8) 45 = 237 ∧ norGate (200 : Word 8) 45 = 18 ∧ xorGate (200 : Word 8) 45 = 229 ∧
  xnorGate (200 : Word 8) 45 = 26

/-! ## Bit layout and selectors -/

/-- R69, the round trips at every width, and for an over-wide non-negative integer at the integer-valued interface: the
Splitter's outputs given to the Hub come back as `w mod 2^width`. -/
def Obligations.SplitterHubRoundTrip : Prop :=
  (∀ (n : Nat) (w : Word n), hub (splitter w) = w) ∧ (∀ (n : Nat) (v : BitVector n), splitter (hub v) = v) ∧
  (∀ (n w : Nat), 1 ≤ n → ∃ bits : List Int,
    run (.splitter n) [(.W, .int w)] = .next [(.BITS, .bits bits)] ∧
    run (.hub n) [(.BITS, .bits bits)] = .next [(.W, .int (w % 2 ^ n : Nat))])

/-- R66 and R68: element `i` of the Splitter is `(W >> i) & 1`, the Hub is the sum of `bit[i] * 2^i`, with the corner cases
and the examples. -/
def Obligations.SplitterAndHubValues : Prop :=
  (∀ (n : Nat) (w : Word n) (i : Fin n), ((splitter w)[i]).toNat = (w.toNat >>> i.val) % 2) ∧
  (∀ (n : Nat) (v : BitVector n), (hub v).toNat = ∑ i : Fin n, (v[i]).toNat * 2 ^ i.val) ∧
  (∀ n : Nat, splitter (0 : Word n) = Vector.replicate n 0 ∧ splitter (BitVec.allOnes n) = Vector.replicate n 1 ∧
    hub (Vector.replicate n (0 : Bit)) = 0 ∧ hub (Vector.replicate n (1 : Bit)) = BitVec.allOnes n) ∧
  splitter (128 : Word 8) = #v[0, 0, 0, 0, 0, 0, 0, 1] ∧ splitter (219 : Word 8) = #v[1, 1, 0, 1, 1, 0, 1, 1] ∧
  hub (#v[1, 1, 0, 1, 1, 0, 1, 1] : BitVector 8) = 219

/-- R73, the one-hot invariant at every Decoder width: a 1 at the index and 0 elsewhere, so the elements sum to 1, no two
are both 1, and the map from index to output is injective; and the table for width 3. -/
def Obligations.DecoderIsOneHot : Prop :=
  (∀ (w : Nat) (idx : BitVector w), (hub idx).toNat < 2 ^ w ∧
    (∀ j : Fin (2 ^ w), (decoder idx)[j] = if j.val = (hub idx).toNat then 1 else 0) ∧
    (∑ j : Fin (2 ^ w), ((decoder idx)[j]).toNat) = 1 ∧
    (∀ i j : Fin (2 ^ w), i ≠ j → (decoder idx)[i] &&& (decoder idx)[j] = 0) ∧
    (∀ idx' : BitVector w, decoder idx = decoder idx' → idx = idx')) ∧
  decoder (#v[0, 0, 0] : BitVector 3) = #v[1, 0, 0, 0, 0, 0, 0, 0] ∧
  decoder (#v[1, 0, 0] : BitVector 3) = #v[0, 1, 0, 0, 0, 0, 0, 0] ∧
  decoder (#v[0, 1, 0] : BitVector 3) = #v[0, 0, 1, 0, 0, 0, 0, 0] ∧
  decoder (#v[1, 1, 0] : BitVector 3) = #v[0, 0, 0, 1, 0, 0, 0, 0] ∧
  decoder (#v[0, 0, 1] : BitVector 3) = #v[0, 0, 0, 0, 1, 0, 0, 0] ∧
  decoder (#v[1, 0, 1] : BitVector 3) = #v[0, 0, 0, 0, 0, 1, 0, 0] ∧
  decoder (#v[0, 1, 1] : BitVector 3) = #v[0, 0, 0, 0, 0, 0, 1, 0] ∧
  decoder (#v[1, 1, 1] : BitVector 3) = #v[0, 0, 0, 0, 0, 0, 0, 1]

/-- R74: the minterm netlist computes the Decoder's function, at every width of at least 1. -/
def Obligations.DecoderNetlistComputesDecoder : Prop :=
  ∀ (w : Nat) (idx : BitVector w), 1 ≤ w → decoderNetlist idx = decoder idx

/-- R75 and R76: the Switch's function, its one-AND-per-lane netlist, `A * S`, and `A & (S replicated N times)` are the
same. -/
def Obligations.SwitchNetlistComputesSwitch : Prop :=
  (∀ (n : Nat) (A : Word n), switch A 1 = A ∧ switch A 0 = 0) ∧
  (∀ (n : Nat) (A : Word n) (S : Bit), switchNetlist A S = switch A S ∧
    (switch A S).toNat = A.toNat * S.toNat ∧ (∀ i : Nat, i < n → lane (switch A S) i = andGate (lane A i) S)) ∧
  switch (245 : Word 8) 1 = 245 ∧ switch (245 : Word 8) 0 = 0

/-- R77, the select-by-OR law: the OR of gated Words is the one whose select Bit is 1, the others being 0. -/
def Obligations.SelectByOr : Prop :=
  ∀ (n m : Nat) (f : Fin m → Word n) (e : Fin m → Bit) (k : Fin m),
    e k = 1 → (∀ j : Fin m, j ≠ k → e j = 0) →
      (List.ofFn fun j => switch (f j) (e j)).foldr orGate 0 = f k

/-! ## Adders -/

/-- R78 and R80: `2 * CARRY + SUM` is the sum of the inputs, for HalfAdder and FullAdder; the closed forms; a FullAdder at
carry-in 0 is a HalfAdder. -/
def Obligations.OneBitAddersAdd : Prop :=
  (∀ A B : Bit, 2 * (halfAdder A B).CARRY.toNat + (halfAdder A B).SUM.toNat = A.toNat + B.toNat ∧
    halfAdder A 0 = { SUM := A, CARRY := 0 } ∧ ¬((halfAdder A B).SUM = 1 ∧ (halfAdder A B).CARRY = 1)) ∧
  (∀ A B C : Bit, 2 * (fullAdder A B C).CARRY.toNat + (fullAdder A B C).SUM.toNat = A.toNat + B.toNat + C.toNat ∧
    (fullAdder A B C).SUM = A ^^^ B ^^^ C ∧ (fullAdder A B C).CARRY = (A &&& B) ||| ((A ^^^ B) &&& C) ∧
    fullAdder A B 0 = halfAdder A B)

/-- R81: the two half carries are never both 1, and the function, unlike the netlist, is symmetric in all three inputs. -/
def Obligations.FullAdderIsSymmetric : Prop :=
  ∀ A B C : Bit,
    ¬((halfAdder A B).CARRY = 1 ∧ (halfAdder (halfAdder A B).SUM C).CARRY = 1) ∧
    fullAdder A B C = fullAdder B A C ∧ fullAdder A B C = fullAdder A C B ∧ fullAdder A B C = fullAdder C B A ∧
    fullAdder A B C = fullAdder B C A ∧ fullAdder A B C = fullAdder C A B

/-- R84: the ripple-carry Adder adds, at every width: its sum, its carry-out, the exact equation, and the prefix equation
after every position. -/
def Obligations.RippleCarryAdderAdds : Prop :=
  ∀ (n : Nat) (A B : Word n) (C : Bit),
    (adder A B C).SUM.toNat = (A.toNat + B.toNat + C.toNat) % 2 ^ n ∧
    (adder A B C).CARRY = (if 2 ^ n ≤ A.toNat + B.toNat + C.toNat then 1 else 0) ∧
    (adder A B C).CARRY.toNat * 2 ^ n + (adder A B C).SUM.toNat = A.toNat + B.toNat + C.toNat ∧
    (∀ i : Nat, i ≤ n → (carryAt (splitter A) (splitter B) C i).toNat * 2 ^ i + (adder A B C).SUM.toNat % 2 ^ i =
      A.toNat % 2 ^ i + B.toNat % 2 ^ i + C.toNat)

/-! ## Derived arithmetic -/

/-- R91: the Negator gives `(2^N - A) mod 2^N`; read as signed, the negation for every `A` but `2^(N-1)`, which maps to
itself (R92: negating twice gives `A` back). -/
def Obligations.NegatorNegates : Prop :=
  ∀ (n : Nat) (A : Word n),
    (negator A).toNat = (2 ^ n - A.toNat) % 2 ^ n ∧
    (A ≠ BitVec.ofNat n (2 ^ (n - 1)) → (negator A).toInt = -A.toInt) ∧
    negator (BitVec.ofNat n (2 ^ (n - 1))) = BitVec.ofNat n (2 ^ (n - 1)) ∧ negator (negator A) = A

/-- R94: the Subtractor gives `A - B` where `A >= B` and `2^N + A - B` where `A < B`, with the document's example. -/
def Obligations.SubtractorSubtracts : Prop :=
  (∀ (n : Nat) (A B : Word n),
    ((subtractor A B).toNat : Int) = ((A.toNat : Int) - (B.toNat : Int)) % 2 ^ n ∧
    (subtractor A B).toNat = if B.toNat ≤ A.toNat then A.toNat - B.toNat else 2 ^ n + A.toNat - B.toNat) ∧
  subtractor (3 : Word 8) 5 = 254

/-- R95: the carry inside the Subtractor is 1 exactly where `B` is not 0 and `A >= B` (so it is 0 at `B = 0`), and no port
shows it. -/
def Obligations.SubtractorInnerCarry : Prop :=
  (∀ (n : Nat) (A B : Word n), (subtractorAdder A B).CARRY = if B ≠ 0 ∧ B.toNat ≤ A.toNat then 1 else 0) ∧
  (∀ n : Nat, outputPorts (.subtractor n) = [(.Y, .word n)])

/-- R98, the row invariant, with the document's trace of 13 * 19; the shifted multiplicand of R97 is `A << i` confined to N
lanes. -/
def Obligations.MultiplierRowInvariant : Prop :=
  (∀ (n : Nat) (A B : Word n) (i : Nat), i < n →
    (slot0At A B i).toNat = A.toNat * (B.toNat % 2 ^ (i + 1)) % 2 ^ n) ∧
  (∀ (n : Nat) (A : Word n) (i : Nat), (multiplicandAt A i).toNat = A.toNat * 2 ^ i % 2 ^ n) ∧
  (List.range 8).map (elem (splitter (19 : Word 8))) = [1, 1, 0, 0, 1, 0, 0, 0] ∧
  (List.range 8).map (multiplicandAt (13 : Word 8)) = [13, 26, 52, 104, 208, 160, 64, 128] ∧
  (List.range 7).map (fun i => partialProduct (13 : Word 8) 19 (i + 1)) = [26, 0, 0, 208, 0, 0, 0] ∧
  (List.range 8).map (slot0At (13 : Word 8) 19) = [13, 39, 39, 39, 247, 247, 247, 247]

/-- R101: lane `j` of the shifted multiplicand is lane `j - i` of `A` for `j >= i` and the constant 0 below. -/
def Obligations.ShiftedMultiplicandLanes : Prop :=
  ∀ (n : Nat) (A : Word n) (i j : Nat), j < n →
    lane (multiplicandAt A i) j = if i ≤ j then lane A (j - i) else 0

/-- R99: the shift-and-add Multiplier gives `(A * B) mod 2^N` and its function is commutative, with the document's
example. -/
def Obligations.MultiplierMultiplies : Prop :=
  (∀ (n : Nat) (A B : Word n),
    (multiplier A B).toNat = A.toNat * B.toNat % 2 ^ n ∧ multiplier A B = multiplier B A) ∧
  multiplier (13 : Word 8) 19 = 247

/-! ## The integer-valued interface and its two failures -/

/-- R132: a call of any component that lacks a required field fails with MissingField, naming an absent required field (the
free value of U13 where several are absent). -/
def Obligations.MissingFieldFails : Prop :=
  ∀ (c : Component) (m : Fields) (g : PortName), c.wf = true → g ∈ (inputPorts c).map Prod.fst → field m g = none →
    ∃ f : PortName, run c m = .fault (.missingField f) ∧ f ∈ (inputPorts c).map Prod.fst ∧ field m f = none ∧
      ((∀ h : PortName, h ∈ (inputPorts c).map Prod.fst → field m h = none → h = g) → f = g)

/-- R133: a FullAdder or an Adder given all its fields with an integer `C` not in {0, 1} fails with InvalidRange "C", and a
call that fails with InvalidRange names `C`, is of one of the two, and has a `C` that is there and no Bit. A bit sequence on
`C` (DEDUCED, notes/assumptions/9.md) is no part of the first clause. -/
def Obligations.CarryInOutOfRangeFails : Prop :=
  (∀ (m : Fields) (a b : FieldValue) (c : Int), field m .A = some a → field m .B = some b →
    field m .C = some (.int c) → c ≠ 0 → c ≠ 1 →
      run .fullAdder m = .fault (.invalidRange .C) ∧
      ∀ n : Nat, 1 ≤ n → run (.adder n) m = .fault (.invalidRange .C)) ∧
  (∀ (c : Component) (m : Fields) (f : PortName), run c m = .fault (.invalidRange f) →
    f = .C ∧ (c = .fullAdder ∨ ∃ n : Nat, c = .adder n) ∧ ∃ v : FieldValue, field m .C = some v ∧ v.isBit = false)

/-- R131, R134, R136, R137: a call fails for no other reason: MissingField names an absent required field, and InvalidRange
comes of a `C` that holds no Bit. -/
def Obligations.NoOtherFailure : Prop :=
  ∀ (c : Component) (m : Fields) (r : Fault), run c m = .fault r →
    (∃ f : PortName, r = .missingField f ∧ f ∈ (inputPorts c).map Prod.fst ∧ field m f = none) ∨
    (r = .invalidRange .C ∧ rangeChecksCarry c = true ∧ ∃ v : FieldValue, field m .C = some v ∧ v.isBit = false)

/-- MissingField ranks before InvalidRange, which is the spec's own decision D24: R139 says that the document does not rank
them. A FullAdder or Adder call that lacks a required field and has a `C` out of range fails with MissingField; and R139's
case: lacking `A`, with `C = 2`, it names `A`. -/
def Obligations.MissingFieldRanksFirst : Prop :=
  (∀ (c : Component) (m : Fields) (g : PortName) (v : FieldValue), c.wf = true → rangeChecksCarry c = true →
    g ∈ (inputPorts c).map Prod.fst → field m g = none → field m .C = some v → v.isBit = false →
      ∃ f : PortName, run c m = .fault (.missingField f)) ∧
  (∀ (m : Fields), field m .A = none → field m .B ≠ none → field m .C = some (.int 2) →
    run .fullAdder m = .fault (.missingField .A) ∧ ∀ n : Nat, 1 ≤ n → run (.adder n) m = .fault (.missingField .A))

/-- R151: a caller that keeps its duties (every required field, `C` in {0, 1}, every value in its port's type) is answered,
by every component, with exactly the component's output ports, each value in its type. Which values is in
CallsAnswerTheTypedComponent. That a mapping with further or repeated fields succeeds as well, the first entry of a name
counting, is the model's choice (DESIGN CHOICE, notes/assumptions/10.md). -/
def Obligations.DutifulCallsSucceed : Prop :=
  ∀ (c : Component) (m : Fields), callerDuties c m = true →
    ∃ outs : Fields, run c m = .next outs ∧ fieldsMatch (outputPorts c) outs = true

/-- R84 and R88 at the interface: the Adder on non-negative integers of any size adds their low N bits, and the carry-out
is that of the reduced operands. -/
def Obligations.AdderCallTruncatesOperands : Prop :=
  ∀ (n a b c : Nat), 1 ≤ n → c ≤ 1 →
    run (.adder n) [(.A, .int a), (.B, .int b), (.C, .int c)] =
      .next [(.SUM, .int ((a % 2 ^ n + b % 2 ^ n + c) % 2 ^ n : Nat)),
        (.CARRY, .int (if 2 ^ n ≤ a % 2 ^ n + b % 2 ^ n + c then 1 else 0))]

/-- R67: the Splitter silently truncates an over-wide non-negative integer, with the example. -/
def Obligations.SplitterCallTruncates : Prop :=
  (∀ (n w : Nat), run (.splitter n) [(.W, .int w)] = run (.splitter n) [(.W, .int (w % 2 ^ n : Nat))]) ∧
  run (.splitter 8) [(.W, .int 457)] = run (.splitter 8) [(.W, .int 201)] ∧
  run (.splitter 8) [(.W, .int 457)] = .next [(.BITS, .bits [1, 0, 0, 1, 0, 0, 1, 1])]

/-- R111 at the interface (R24, R135): the ALU on integers in [0, 2^N - 1] and an opcode byte of any size, of which the low
bits count (U10). -/
def Obligations.AluCallComputesReference : Prop :=
  ∀ (n : Nat) (A B : Word n) (op : Nat), 1 ≤ n →
    run (.alu n) [(.A, .int A.toNat), (.B, .int B.toNat), (.op, .int op)] =
      .next [(.Y, .int (aluReference A B (BitVec.ofNat 8 op)).toNat)]

/-- A value to which the document gives no meaning is refused, whatever the component and the field, and nothing else is: with
every required field there and the carry-in, where it is checked, in range, one field whose value `fieldAccepted` does not take
makes the call refused; and a refused call has such a field, or is of a component of width 0. Then instances: a Hub's
elements outside {0, 1} (R70), operands of a raw gate or of the ALU, and negative integers. Refusing, and which integers are
truncated instead, is the spec's own decision D22, which the model reads as in `fieldAccepted` (DEDUCED,
notes/assumptions/7.md); the refusal of values of the other kind, of sequences of another length and of width 0 is the model's
(DESIGN CHOICE, notes/assumptions/8.md; DEDUCED, notes/assumptions/11.md). -/
def Obligations.OutOfTypeValuesRefused : Prop :=
  (∀ (c : Component) (m : Fields), c.wf = true → (∀ p ∈ inputPorts c, field m p.1 ≠ none) →
    (rangeChecksCarry c = true → field m .C = some (.int 0) ∨ field m .C = some (.int 1)) →
    (∃ p ∈ inputPorts c, ∃ v : FieldValue, field m p.1 = some v ∧ fieldAccepted c p.1 p.2 v = false) →
      run c m = .refused (.outOfType c)) ∧
  (∀ (c : Component) (m : Fields), c.wf = false → run c m = .refused (.zeroWidth c)) ∧
  (∀ (c : Component) (m : Fields) (r : Refusal), run c m = .refused r →
    (c.wf = false ∧ r = .zeroWidth c) ∨
    (c.wf = true ∧ r = .outOfType c ∧
      ∃ p ∈ inputPorts c, ∃ v : FieldValue, field m p.1 = some v ∧ fieldAccepted c p.1 p.2 v = false)) ∧
  (∀ (n : Nat) (l : List Int), 1 ≤ n → (∃ v ∈ l, v ≠ 0 ∧ v ≠ 1) →
    run (.hub n) [(.BITS, .bits l)] = .refused (.outOfType (.hub n)) ∧
    run (.decoder n) [(.IDX, .bits l)] = .refused (.outOfType (.decoder n))) ∧
  (∀ (n : Nat) (a b : Int), 1 ≤ n → (a < 0 ∨ 2 ^ n ≤ a ∨ b < 0 ∨ 2 ^ n ≤ b) →
    run (.and n) [(.A, .int a), (.B, .int b)] = .refused (.outOfType (.and n)) ∧
    ∀ o : Int, run (.alu n) [(.A, .int a), (.B, .int b), (.op, .int o)] = .refused (.outOfType (.alu n))) ∧
  (∀ (n : Nat) (a : Int), 1 ≤ n → a < 0 →
    run (.splitter n) [(.W, .int a)] = .refused (.outOfType (.splitter n)) ∧
    run (.negator n) [(.A, .int a)] = .refused (.outOfType (.negator n)))

/-- The `run` call of every component answers its typed component on the fields (R24, R135), so each value is that of the
component's own statements: gates, Switch, Hub, Decoder, HalfAdder, FullAdder and the ALU's operands on values in their types;
Splitter, Negator, Subtractor, Multiplier, the Adder's operands and the ALU's `op` on a non-negative integer of any size, of
which `BitVec.ofNat` takes the low bits (R67, R88; the spec's decision D22, DEDUCED, notes/assumptions/7.md). It holds of every
mapping with these fields, further ones or not, in any order (DESIGN CHOICE, notes/assumptions/10.md). -/
def Obligations.CallsAnswerTheTypedComponent : Prop :=
  ∀ (n : Nat) (m : Fields), 1 ≤ n →
    (∀ a : Word n, field m .A = some (.int a.toNat) →
      run (.not n) m = .next [(.Y, .int (notGate a).toNat)] ∧
      (∀ s : Bit, field m .S = some (.int s.toNat) → run (.switch n) m = .next [(.Y, .int (switch a s).toNat)]) ∧
      ∀ b : Word n, field m .B = some (.int b.toNat) →
        run (.nand n) m = .next [(.Y, .int (nandGate a b).toNat)] ∧
        run (.and n) m = .next [(.Y, .int (andGate a b).toNat)] ∧
        run (.or n) m = .next [(.Y, .int (orGate a b).toNat)] ∧
        run (.nor n) m = .next [(.Y, .int (norGate a b).toNat)] ∧
        run (.xor n) m = .next [(.Y, .int (xorGate a b).toNat)] ∧
        run (.xnor n) m = .next [(.Y, .int (xnorGate a b).toNat)] ∧
        ∀ op : Nat, field m .op = some (.int op) →
          run (.alu n) m = .next [(.Y, .int (alu a b (BitVec.ofNat 8 op)).toNat)]) ∧
    (∀ w : Nat, field m .W = some (.int w) →
      run (.splitter n) m =
        .next [(.BITS, .bits ((splitter (BitVec.ofNat n w)).toList.map fun x => (x.toNat : Int)))]) ∧
    (∀ v : BitVector n, field m .BITS = some (.bits (v.toList.map fun x => (x.toNat : Int))) →
      run (.hub n) m = .next [(.W, .int (hub v).toNat)]) ∧
    (∀ v : BitVector n, field m .IDX = some (.bits (v.toList.map fun x => (x.toNat : Int))) →
      run (.decoder n) m = .next [(.EN, .bits ((decoder v).toList.map fun x => (x.toNat : Int)))]) ∧
    (∀ a b : Bit, field m .A = some (.int a.toNat) → field m .B = some (.int b.toNat) →
      run .halfAdder m = .next [(.SUM, .int (halfAdder a b).SUM.toNat), (.CARRY, .int (halfAdder a b).CARRY.toNat)] ∧
      ∀ c : Bit, field m .C = some (.int c.toNat) →
        run .fullAdder m =
          .next [(.SUM, .int (fullAdder a b c).SUM.toNat), (.CARRY, .int (fullAdder a b c).CARRY.toNat)]) ∧
    (∀ a : Nat, field m .A = some (.int a) →
      run (.negator n) m = .next [(.Y, .int (negator (BitVec.ofNat n a)).toNat)] ∧
      ∀ b : Nat, field m .B = some (.int b) →
        run (.subtractor n) m = .next [(.Y, .int (subtractor (BitVec.ofNat n a) (BitVec.ofNat n b)).toNat)] ∧
        run (.multiplier n) m = .next [(.Y, .int (multiplier (BitVec.ofNat n a) (BitVec.ofNat n b)).toNat)] ∧
        ∀ c : Bit, field m .C = some (.int c.toNat) →
          run (.adder n) m =
            .next [(.SUM, .int (adder (BitVec.ofNat n a) (BitVec.ofNat n b) c).SUM.toNat),
              (.CARRY, .int (adder (BitVec.ofNat n a) (BitVec.ofNat n b) c).CARRY.toNat)])

/-- R140 and R141: a failed call yields no output, is recorded with its cause, and leaves everything else as it was; the
evaluation after it, of the ALU on any ports or of another call, ends as if the failed one had not been. That the failure is
recorded in a next state, and that evaluations and calls are steps, is the model's (DEDUCED, notes/assumptions/5.md; DESIGN
CHOICE, notes/assumptions/3.md and 4.md); which field a later failure names, where several are missing, is no part of it
(U13, notes/assumptions/6.md). -/
def Obligations.FailedCallLeavesNoTrace : Prop :=
  (∀ (s : State) (c : Call) (r : Fault), run c.component c.inputs = .fault r →
    step (s.presentCall c) = .next (s.recordAnswer { component := c.component, answer := .failed r })) ∧
  (∀ (s t : State) (c : Call) (r : Fault), run c.component c.inputs = .fault r → step (s.presentCall c) = .next t →
    ∃ q : CallRecord, t = s.recordAnswer q ∧
      (∀ (a b : Word s.width) (op : OpByte), ∃ u : State, step (s.present a b op) = .next u ∧
        step ((s.recordAnswer q).present a b op) = .next (u.recordAnswer q)) ∧
      (∀ d : Call, endsAlike d s t))

/-- A call that succeeds is recorded with its outputs and is no longer presented; the ALU's ports and the width are left
alone. R24 gives the call's form and R38 that nothing is shared between uses; that a step answers a presented call and records
it in `result` is the MODEL's choice (DESIGN CHOICE, notes/assumptions/4.md). -/
def Obligations.AnsweredCallIsRecorded : Prop :=
  ∀ (s : State) (c : Call) (outs : Fields), run c.component c.inputs = .next outs →
    step (s.presentCall c) = .next (s.recordAnswer { component := c.component, answer := .outputs outs })

/-! ## Sizes of the netlists -/

/-- R65: the primitives of each gate, per lane, and its longest path. -/
def Obligations.GatePrimitiveCounts : Prop :=
  (∀ w : Nat, primCount (.not w) = { nots := w, nands := 0 } ∧ primCount (.nand w) = { nots := 0, nands := w } ∧
    primCount (.and w) = { nots := w, nands := w } ∧ primCount (.or w) = { nots := 2 * w, nands := w } ∧
    primCount (.nor w) = { nots := 3 * w, nands := w } ∧ primCount (.xor w) = { nots := 6 * w, nands := 3 * w } ∧
    primCount (.xnor w) = { nots := 7 * w, nands := 3 * w }) ∧
  (∀ w : Nat, longestPath (.not w) = [(.Y, 1)] ∧ longestPath (.nand w) = [(.Y, 1)] ∧ longestPath (.and w) = [(.Y, 2)] ∧
    longestPath (.or w) = [(.Y, 2)] ∧ longestPath (.nor w) = [(.Y, 3)] ∧ longestPath (.xor w) = [(.Y, 5)] ∧
    longestPath (.xnor w) = [(.Y, 6)])

/-- The closed forms of R157, a rule that calls itself non-normative: the totals at every width of at least 1, and the Adder's
two paths. The totals of Switch, Multiplier and ALU are those of the netlists that the spec chose (decisions D4, D5, D6, D14;
notes/assumptions/14.md), counted as the model counts (DESIGN CHOICE, notes/assumptions/17.md). -/
def Obligations.NetlistClosedForms : Prop :=
  ∀ n : Nat, 1 ≤ n →
    (primCount (.adder n)).total = 25 * n ∧ (primCount (.negator n)).total = 26 * n ∧
    (primCount (.subtractor n)).total = 51 * n ∧ (primCount (.switch n)).total = 2 * n ∧
    (primCount (.multiplier n)).total + 25 * n = 27 * n ^ 2 ∧
    (primCount (.alu n)).total = 27 * n ^ 2 + 96 * n + 35 ∧
    longestPath (.adder n) = [(.SUM, 4 * n + 6), (.CARRY, 4 * n + 5)]

/-- Every row of the table of R157, a rule that calls itself non-normative: primitives and longest paths. The figures of
Decoder, Switch, Multiplier and ALU are those of the netlists that the spec chose (decisions D4, D5, D6, D14;
notes/assumptions/14.md), and a constant counts as an input (DESIGN CHOICE, notes/assumptions/17.md). -/
def Obligations.NetlistPathsOfTheTable : Prop :=
  (primCount .halfAdder = { nots := 7, nands := 4 } ∧ longestPath .halfAdder = [(.SUM, 5), (.CARRY, 2)]) ∧
  (primCount .fullAdder = { nots := 16, nands := 9 } ∧ longestPath .fullAdder = [(.SUM, 10), (.CARRY, 9)]) ∧
  (primCount (.adder 8) = { nots := 128, nands := 72 } ∧ longestPath (.adder 8) = [(.SUM, 38), (.CARRY, 37)]) ∧
  (primCount (.adder 32) = { nots := 512, nands := 288 } ∧ longestPath (.adder 32) = [(.SUM, 134), (.CARRY, 133)]) ∧
  (primCount (.negator 8) = { nots := 136, nands := 72 } ∧ longestPath (.negator 8) = [(.Y, 39)]) ∧
  (primCount (.negator 32) = { nots := 544, nands := 288 } ∧ longestPath (.negator 32) = [(.Y, 135)]) ∧
  (primCount (.subtractor 8) = { nots := 264, nands := 144 } ∧ longestPath (.subtractor 8) = [(.Y, 49)]) ∧
  (primCount (.subtractor 32) = { nots := 1056, nands := 576 } ∧ longestPath (.subtractor 32) = [(.Y, 145)]) ∧
  (∀ n : Nat, primCount (.switch n) = { nots := n, nands := n } ∧ longestPath (.switch n) = [(.Y, 2)]) ∧
  (primCount (.decoder 3) = { nots := 19, nands := 16 } ∧ longestPath (.decoder 3) = [(.EN, 5)]) ∧
  (primCount (.multiplier 8) = { nots := 960, nands := 568 } ∧ longestPath (.multiplier 8) = [(.Y, 100)]) ∧
  (primCount (.multiplier 32) = { nots := 16896, nands := 9952 } ∧ longestPath (.multiplier 32) = [(.Y, 436)]) ∧
  (primCount (.alu 8) = { nots := 1587, nands := 944 } ∧ longestPath (.alu 8) = [(.Y, 108)]) ∧
  (primCount (.alu 32) = { nots := 19347, nands := 11408 } ∧ longestPath (.alu 32) = [(.Y, 444)])
end

