-- ==== Sys2Proof/Laws/Gates.lean ====
section
/-! SUPPORT. What each gate and each wiring component computes, said once: later proofs cite these instead of unfolding the
netlists (spec/40_gates.md R63, spec/41_bit_layout.md R66, R71). -/

namespace Sys2Proof.Machine

open Sys2Proof

theorem notGate_eq {w : Nat} (A : Word w) : notGate A = ~~~A := rfl

theorem nandGate_eq {w : Nat} (A B : Word w) : nandGate A B = ~~~(A &&& B) := rfl

theorem andGate_eq {w : Nat} (A B : Word w) : andGate A B = A &&& B := by simp [andGate, notGate, nandGate]

theorem orGate_eq {w : Nat} (A B : Word w) : orGate A B = A ||| B := by
  ext i hi; simp [orGate, notGate, nandGate]

theorem norGate_eq {w : Nat} (A B : Word w) : norGate A B = ~~~(A ||| B) := by rw [norGate, orGate_eq]; rfl

theorem xorGate_eq {w : Nat} (A B : Word w) : xorGate A B = A ^^^ B := by
  rw [xorGate, orGate_eq, andGate_eq, andGate_eq, notGate_eq, notGate_eq]
  ext i hi
  simp only [BitVec.getElem_or, BitVec.getElem_and, BitVec.getElem_not, BitVec.getElem_xor]
  cases A[i] <;> cases B[i] <;> rfl

theorem xnorGate_eq {w : Nat} (A B : Word w) : xnorGate A B = ~~~(A ^^^ B) := by rw [xnorGate, xorGate_eq]; rfl

/-- What the seven gates do on Bits, in the table's terms (R63). -/
theorem gateRow_mem_gateAlgebra (A B : Bit) : gateRow A B ∈ gateAlgebra := by revert A B; decide

theorem notGate_mem_notAlgebra (A : Bit) : (A, notGate A) ∈ notAlgebra := by revert A; decide

/-- A lane is the one-bit Word of that bit. -/
theorem lane_eq {n : Nat} (w : Word n) (i : Nat) : lane w i = BitVec.ofBool (w.getLsbD i) := by
  ext j hj
  have : j = 0 := by omega
  subst this
  simp [lane]

/-- A Bit is 0 or 1. -/
theorem bit_cases (b : Bit) : b = 0 ∨ b = 1 := by
  revert b; decide

theorem elem_eq_getElem {n : Nat} (v : BitVector n) (i : Nat) (h : i < n) : elem v i = v[i] := by
  simp [elem, Vector.getD, h]

/-- Element `i` of a split Word is its lane `i`. -/
theorem elem_splitter {n : Nat} (w : Word n) (i : Nat) (h : i < n) : elem (splitter w) i = lane w i := by
  rw [elem_eq_getElem _ _ h]; simp [splitter]

end Sys2Proof.Machine
end

