-- ==== Sys2Proof/Laws/Circuits.lean ====
section
/-! SUPPORT. The small lemmas of the selector, adder and derived-arithmetic definitions: one equation for each case, so that
no later proof unfolds a definition for itself. What the components compute is stated in the obligations. -/

namespace Sys2Proof.Machine

open Sys2Proof

@[simp] theorem splitter_getElem {n : Nat} (w : Word n) (i : Nat) (h : i < n) : (splitter w)[i] = lane w i := by
  simp [splitter]

@[simp] theorem hubSum_nil (i : Nat) : hubSum i [] = 0 := rfl

@[simp] theorem hubSum_cons (i : Nat) (b : Bit) (bs : List Bit) :
    hubSum i (b :: bs) = b.toNat * 2 ^ i + hubSum (i + 1) bs := rfl

@[simp] theorem decoder_getElem {w : Nat} (idx : BitVector w) (j : Nat) (h : j < 2 ^ w) :
    (decoder idx)[j] = if j = (hub idx).toNat then 1 else 0 := by simp [decoder]

@[simp] theorem switch_one {n : Nat} (A : Word n) : switch A 1 = A := rfl

@[simp] theorem switch_zero {n : Nat} (A : Word n) : switch A 0 = 0 := if_neg (by decide)

@[simp] theorem mintermAnd_zero {w : Nat} (idx : BitVector w) (j : Nat) :
    mintermAnd idx j 0 = mintermLiteral idx j 0 := rfl

@[simp] theorem mintermAnd_succ {w : Nat} (idx : BitVector w) (j i : Nat) :
    mintermAnd idx j (i + 1) = andGate (mintermAnd idx j i) (mintermLiteral idx j (i + 1)) := rfl

@[simp] theorem carryAt_zero {n : Nat} (a b : BitVector n) (C : Bit) : carryAt a b C 0 = C := rfl

@[simp] theorem carryAt_succ {n : Nat} (a b : BitVector n) (C : Bit) (i : Nat) :
    carryAt a b C (i + 1) = (fullAdder (elem a i) (elem b i) (carryAt a b C i)).CARRY := rfl

theorem adder_CARRY {n : Nat} (A B : Word n) (C : Bit) :
    (adder A B C).CARRY = carryAt (splitter A) (splitter B) C n := rfl

theorem adder_SUM {n : Nat} (A B : Word n) (C : Bit) :
    (adder A B C).SUM = hub (Vector.ofFn fun i : Fin n =>
      (fullAdder (elem (splitter A) i.val) (elem (splitter B) i.val)
        (carryAt (splitter A) (splitter B) C i.val)).SUM) := rfl

@[simp] theorem multiplicandAt_zero {n : Nat} (A : Word n) : multiplicandAt A 0 = A := rfl

@[simp] theorem multiplicandAt_succ {n : Nat} (A : Word n) (i : Nat) :
    multiplicandAt A (i + 1) = multiplicandAt A i <<< 1 := rfl

@[simp] theorem slot0At_zero {n : Nat} (A B : Word n) : slot0At A B 0 = partialProduct A B 0 := rfl

@[simp] theorem slot0At_succ {n : Nat} (A B : Word n) (i : Nat) :
    slot0At A B (i + 1) = (adder (slot0At A B i) (partialProduct A B (i + 1)) constCarryIn).SUM := rfl

end Sys2Proof.Machine
end

