-- ==== Sys2Proof/Laws/PerInstr.lean ====
section
/-! SUPPORT. The per-instruction family `RowMask`: the encoding of an instruction matches the row of
spec/opcode_table.json that it stands for, under the row's mask 0x07, and no other row's match does (R48). -/

namespace Sys2Proof.Laws.RowMask

open Sys2Proof

/-- The row's `match` value is the opcode byte under the mask 0x07. -/
def Statement (i : Instr) : Prop := encode i &&& 0x07#8 = (0#5 ++ i.opc : BitVec 8)

theorem or (ign : BitVec 5) : Statement (.or ign) := by revert ign; unfold Statement; decide
theorem nand (ign : BitVec 5) : Statement (.nand ign) := by revert ign; unfold Statement; decide
theorem nor (ign : BitVec 5) : Statement (.nor ign) := by revert ign; unfold Statement; decide
theorem and (ign : BitVec 5) : Statement (.and ign) := by revert ign; unfold Statement; decide
theorem add (ign : BitVec 5) : Statement (.add ign) := by revert ign; unfold Statement; decide
theorem sub (ign : BitVec 5) : Statement (.sub ign) := by revert ign; unfold Statement; decide
theorem mul (ign : BitVec 5) : Statement (.mul ign) := by revert ign; unfold Statement; decide
theorem rsvd7 (ign : BitVec 5) : Statement (.rsvd7 ign) := by revert ign; unfold Statement; decide

end Sys2Proof.Laws.RowMask
end

