-- ==== Sys2Proof/Laws/State.lean ====
section
/-! SUPPORT. One lemma for each field after each update of State, so that no proof unfolds a record update. -/

namespace Sys2Proof.Machine

open Sys2Proof

section setY
variable (s : State) (y z : Word s.width)
@[simp] theorem State.setY_width : (s.setY y).width = s.width := rfl
@[simp] theorem State.setY_A : (s.setY y).A = s.A := rfl
@[simp] theorem State.setY_B : (s.setY y).B = s.B := rfl
@[simp] theorem State.setY_op : (s.setY y).op = s.op := rfl
@[simp] theorem State.setY_Y : (s.setY y).Y = y := rfl
@[simp] theorem State.setY_call : (s.setY y).call = s.call := rfl
@[simp] theorem State.setY_result : (s.setY y).result = s.result := rfl
@[simp] theorem State.setY_setY : (s.setY y).setY z = s.setY z := rfl
@[simp] theorem State.setY_self : s.setY s.Y = s := rfl
end setY

section present
variable (s : State) (a b : Word s.width) (o : OpByte)
@[simp] theorem State.present_width : (s.present a b o).width = s.width := rfl
@[simp] theorem State.present_A : (s.present a b o).A = a := rfl
@[simp] theorem State.present_B : (s.present a b o).B = b := rfl
@[simp] theorem State.present_op : (s.present a b o).op = o := rfl
@[simp] theorem State.present_Y : (s.present a b o).Y = s.Y := rfl
@[simp] theorem State.present_call : (s.present a b o).call = none := rfl
@[simp] theorem State.present_result : (s.present a b o).result = s.result := rfl
end present

section presentCall
variable (s : State) (c : Call)
@[simp] theorem State.presentCall_width : (s.presentCall c).width = s.width := rfl
@[simp] theorem State.presentCall_A : (s.presentCall c).A = s.A := rfl
@[simp] theorem State.presentCall_B : (s.presentCall c).B = s.B := rfl
@[simp] theorem State.presentCall_op : (s.presentCall c).op = s.op := rfl
@[simp] theorem State.presentCall_Y : (s.presentCall c).Y = s.Y := rfl
@[simp] theorem State.presentCall_call : (s.presentCall c).call = some c := rfl
@[simp] theorem State.presentCall_result : (s.presentCall c).result = s.result := rfl
end presentCall

section recordAnswer
variable (s : State) (r : CallRecord)
@[simp] theorem State.recordAnswer_width : (s.recordAnswer r).width = s.width := rfl
@[simp] theorem State.recordAnswer_A : (s.recordAnswer r).A = s.A := rfl
@[simp] theorem State.recordAnswer_B : (s.recordAnswer r).B = s.B := rfl
@[simp] theorem State.recordAnswer_op : (s.recordAnswer r).op = s.op := rfl
@[simp] theorem State.recordAnswer_Y : (s.recordAnswer r).Y = s.Y := rfl
@[simp] theorem State.recordAnswer_call : (s.recordAnswer r).call = none := rfl
@[simp] theorem State.recordAnswer_result : (s.recordAnswer r).result = some r := rfl
end recordAnswer

section withFetchWord
variable (s : State) (k w : Nat)
@[simp] theorem State.withFetchWord_width : (s.withFetchWord k w).width = s.width := rfl
@[simp] theorem State.withFetchWord_A : (s.withFetchWord k w).A = s.A := rfl
@[simp] theorem State.withFetchWord_B : (s.withFetchWord k w).B = s.B := rfl
@[simp] theorem State.withFetchWord_op : (s.withFetchWord k w).op = BitVec.ofNat 8 (w % 2 ^ k) := rfl
@[simp] theorem State.withFetchWord_Y : (s.withFetchWord k w).Y = s.Y := rfl
@[simp] theorem State.withFetchWord_call : (s.withFetchWord k w).call = none := rfl
@[simp] theorem State.withFetchWord_result : (s.withFetchWord k w).result = s.result := rfl
end withFetchWord

section resetAt
variable (n : Nat)
@[simp] theorem State.resetAt_width : (State.resetAt n).width = n := rfl
@[simp] theorem State.resetAt_A : (State.resetAt n).A = (0 : Word n) := rfl
@[simp] theorem State.resetAt_B : (State.resetAt n).B = (0 : Word n) := rfl
@[simp] theorem State.resetAt_op : (State.resetAt n).op = 0 := rfl
@[simp] theorem State.resetAt_Y : (State.resetAt n).Y = (0 : Word n) := rfl
@[simp] theorem State.resetAt_call : (State.resetAt n).call = none := rfl
@[simp] theorem State.resetAt_result : (State.resetAt n).result = none := rfl
end resetAt

end Sys2Proof.Machine
end

