-- ==== Sys2Proof/Laws/Run.lean ====
section
/-! SUPPORT. What the integer-valued interface and the step can do, said once (spec/60_exceptions.md R131 to R141). -/

namespace Sys2Proof.Machine

open Sys2Proof

/-- Everything `run` can answer: the refusal of width 0, a MissingField, an InvalidRange, the outputs of the typed
component, or the refusal of a value outside its port's type; each with the checks that came before it. -/
theorem run_cases (c : Component) (m : Fields) :
    (c.wf = false ∧ run c m = .refused (.zeroWidth c)) ∨
    (c.wf = true ∧ ∃ f fs, absentFields c m = f :: fs ∧ run c m = .fault (.missingField (namedMissing c m f fs))) ∨
    (c.wf = true ∧ absentFields c m = [] ∧
      ((rangeChecksCarry c = true ∧ carryInRange m = false ∧ run c m = .fault (.invalidRange .C)) ∨
       ((rangeChecksCarry c = false ∨ carryInRange m = true) ∧
         ((∃ outs, evaluate c m = some outs ∧ run c m = .next outs) ∨
          (evaluate c m = none ∧ run c m = .refused (.outOfType c)))))) := by
  unfold run
  cases hw : c.wf
  · simp
  · cases ha : absentFields c m with
    | cons f fs => simp
    | nil =>
      cases hr : rangeChecksCarry c <;> cases hc : carryInRange m <;> cases he : evaluate c m <;> simp

/-- If `run` answers outputs, the checks all passed and the outputs are those of the typed component. -/
theorem run_next {c : Component} {m outs : Fields} (h : run c m = .next outs) :
    c.wf = true ∧ absentFields c m = [] ∧ evaluate c m = some outs := by
  rcases run_cases c m with ⟨_, e⟩ | ⟨_, f, fs, _, e⟩ | ⟨hw, ha, ⟨_, _, e⟩ | ⟨_, ⟨o, ho, e⟩ | ⟨_, e⟩⟩⟩ <;>
    rw [e] at h <;> cases h
  exact ⟨hw, ha, ho⟩

@[simp] theorem finishCall_next (c : Component) (outs : Fields) (s : State) :
    finishCall c (.next outs) s = .next (s.recordAnswer { component := c, answer := .outputs outs }) := rfl

@[simp] theorem finishCall_fault (c : Component) (r : Fault) (s : State) :
    finishCall c (.fault r) s = .next (takePreconditionFailure c r s) := rfl

@[simp] theorem finishCall_refused (c : Component) (r : Refusal) (s : State) :
    finishCall c (.refused r) s = .refused r := rfl

@[simp] theorem driveY_eq (s : State) (y : Word s.width) : driveY s y = .next (s.setY y) := rfl

@[simp] theorem step_of_none {s : State} (h : s.call = none) : step s = exec (decode s.op) s := by simp [step, h]

@[simp] theorem step_of_some {s : State} {c : Call} (h : s.call = some c) :
    step s = finishCall c.component (run c.component c.inputs) s := by simp [step, h, answerCall]

/-- The meaning of every instruction shows some Word on `Y` and does nothing else. -/
theorem exec_drives (i : Instr) (s : State) : ∃ y, exec i s = driveY s y := by
  cases i <;> exact ⟨_, rfl⟩

/-- Everything a step that answers a next state can do: show a Word on `Y`, or end the presented call with a record. -/
theorem step_next_cases {s t : State} (h : step s = .next t) :
    (s.call = none ∧ ∃ y, exec (decode s.op) s = .next (s.setY y) ∧ t = s.setY y) ∨
    (∃ c, s.call = some c ∧
      ((∃ outs, run c.component c.inputs = .next outs ∧
          t = s.recordAnswer { component := c.component, answer := .outputs outs }) ∨
       (∃ r, run c.component c.inputs = .fault r ∧ t = takePreconditionFailure c.component r s))) := by
  cases hc : s.call with
  | none =>
    obtain ⟨y, hy⟩ := exec_drives (decode s.op) s
    rw [step_of_none hc, hy, driveY_eq] at h
    exact .inl ⟨rfl, y, by rw [hy, driveY_eq], by cases h; rfl⟩
  | some c =>
    rw [step_of_some hc] at h
    refine .inr ⟨c, rfl, ?_⟩
    cases hr : run c.component c.inputs with
    | next outs => rw [hr] at h; cases h; exact .inl ⟨outs, rfl, rfl⟩
    | fault r => rw [hr] at h; cases h; exact .inr ⟨r, rfl, rfl⟩
    | refused r => rw [hr] at h; cases h

/-- The named missing field is one of the absent ones, whatever the free value (U13). -/
theorem namedMissing_mem (c : Component) (m : Fields) (f : PortName) (fs : List PortName) :
    namedMissing c m f fs ∈ f :: fs := by
  unfold namedMissing
  cases fs with
  | nil => simp
  | cons g gs =>
    simp only
    have h : Config.missingFieldIndex c m % ((g :: gs).length + 1) < (f :: g :: gs).length :=
      Nat.mod_lt _ (by simp)
    rw [List.getD_eq_getElem _ _ h]
    exact List.getElem_mem h

/-- A field is absent exactly when it is a required name that the mapping does not hold. -/
theorem mem_absentFields {c : Component} {m : Fields} {f : PortName} :
    f ∈ absentFields c m ↔ f ∈ (inputPorts c).map Prod.fst ∧ field m f = none := by
  simp only [absentFields, List.mem_filter, Option.isNone_iff_eq_none]

/-- What `wordExact` reads: an integer in range. -/
theorem wordExact_some {n : Nat} {m : Fields} {f : PortName} {w : Word n} (h : wordExact n m f = some w) :
    ∃ v : Int, field m f = some (.int v) ∧ 0 ≤ v ∧ v < 2 ^ n ∧ w = BitVec.ofInt n v := by
  unfold wordExact at h
  split at h
  · rename_i v hv
    split at h
    · rename_i hw
      simp only [FieldValue.isWord, decide_eq_true_eq] at hw
      exact ⟨v, hv, hw.1, hw.2, (Option.some.inj h).symm⟩
    · cases h
  · cases h

/-- What `wordTruncated` reads: a non-negative integer of any size. -/
theorem wordTruncated_some {n : Nat} {m : Fields} {f : PortName} {w : Word n} (h : wordTruncated n m f = some w) :
    ∃ v : Int, field m f = some (.int v) ∧ 0 ≤ v ∧ w = BitVec.ofInt n v := by
  unfold wordTruncated at h
  split at h
  · rename_i v hv
    split at h
    · rename_i hw
      simp only [FieldValue.isNonNegative, decide_eq_true_eq] at hw
      exact ⟨v, hv, hw, (Option.some.inj h).symm⟩
    · cases h
  · cases h

/-- What `bitExact` reads: 0 or 1. -/
theorem bitExact_some {m : Fields} {f : PortName} {b : Bit} (h : bitExact m f = some b) :
    ∃ v : Int, field m f = some (.int v) ∧ (v = 0 ∨ v = 1) ∧ b = BitVec.ofInt 1 v := by
  unfold bitExact at h
  split at h
  · rename_i v hv
    split at h
    · rename_i hw
      simp only [FieldValue.isBit, decide_eq_true_eq] at hw
      exact ⟨v, hv, hw, (Option.some.inj h).symm⟩
    · cases h
  · cases h

/-- What `bitsExact` reads: a sequence of exactly `n` elements, each 0 or 1. -/
theorem bitsExact_some {n : Nat} {m : Fields} {f : PortName} {v : BitVector n} (h : bitsExact n m f = some v) :
    ∃ l : List Int, field m f = some (.bits l) ∧ l.length = n ∧ (∀ x ∈ l, x = 0 ∨ x = 1) ∧
      v = Vector.ofFn fun i : Fin n => BitVec.ofInt 1 (l.getD i.val 0) := by
  unfold bitsExact at h
  split at h
  · rename_i l hl
    split at h
    · rename_i hw
      simp only [FieldValue.isBits, Bool.and_eq_true, decide_eq_true_eq, List.all_eq_true] at hw
      exact ⟨l, hl, hw.1, hw.2, (Option.some.inj h).symm⟩
    · cases h
  · cases h

/-! The four readers on a field that is there: what each gives, and that it gives nothing where the value does not fit. -/

section readers
variable {n : Nat} {m : Fields} {f : PortName} {v : Int}

theorem wordExact_of_int (h : field m f = some (.int v)) :
    wordExact n m f = if 0 ≤ v ∧ v < 2 ^ n then some (BitVec.ofInt n v) else none := by
  simp [wordExact, h, FieldValue.isWord]

theorem wordTruncated_of_int (h : field m f = some (.int v)) :
    wordTruncated n m f = if 0 ≤ v then some (BitVec.ofInt n v) else none := by
  simp [wordTruncated, h, FieldValue.isNonNegative]

theorem bitExact_of_int (h : field m f = some (.int v)) :
    bitExact m f = if v = 0 ∨ v = 1 then some (BitVec.ofInt 1 v) else none := by
  simp [bitExact, h, FieldValue.isBit]

theorem bitsExact_of_int (h : field m f = some (.int v)) : bitsExact n m f = none := by simp [bitsExact, h]

variable {l : List Int}

theorem wordExact_of_bits (h : field m f = some (.bits l)) : wordExact n m f = none := by simp [wordExact, h]

theorem wordTruncated_of_bits (h : field m f = some (.bits l)) : wordTruncated n m f = none := by simp [wordTruncated, h]

theorem bitExact_of_bits (h : field m f = some (.bits l)) : bitExact m f = none := by simp [bitExact, h]

theorem bitsExact_of_bits (h : field m f = some (.bits l)) :
    bitsExact n m f = if l.length = n ∧ ∀ x ∈ l, x = 0 ∨ x = 1 then
      some (Vector.ofFn fun i : Fin n => BitVec.ofInt 1 (l.getD i.val 0)) else none := by
  simp [bitsExact, h, FieldValue.isBits]

/-- A Word written to a field and read back, exactly and through a Splitter. -/
theorem wordExact_of_ofWord {w : Word n} (h : field m f = some (ofWord w)) : wordExact n m f = some w := by
  have hw := w.isLt
  rw [wordExact_of_int h, if_pos ⟨by omega, by exact_mod_cast hw⟩]
  simp

theorem wordTruncated_of_nat {k : Nat} (h : field m f = some (.int k)) : wordTruncated n m f = some (BitVec.ofNat n k) := by
  rw [wordTruncated_of_int h, if_pos (by omega)]
  simp

theorem bitExact_of_ofWord {b : Bit} (h : field m f = some (ofWord b)) : bitExact m f = some b := by
  rw [bitExact_of_int h]
  clear h
  revert b; decide

theorem bitsExact_of_ofBits {v : BitVector n} (h : field m f = some (ofBits v)) : bitsExact n m f = some v := by
  have isBit : ∀ b : Bit, (b.toNat : Int) = 0 ∨ (b.toNat : Int) = 1 := by decide
  have range : ∀ x ∈ v.toList.map fun b => (b.toNat : Int), x = 0 ∨ x = 1 := by
    intro x hx
    obtain ⟨b, _, rfl⟩ := List.mem_map.mp hx
    exact isBit b
  rw [bitsExact_of_bits h, if_pos ⟨by simp, range⟩]
  congr 1
  ext1 i hi
  simp [List.getD]

end readers

end Sys2Proof.Machine
end

