-- ==== Sys2Proof/Tests/Slice0.lean ====
section
/-! SUPPORT. The session's own tests. Expected values are the spec's: the encodings of spec/30_encoding.md R43 and R48, the
worked examples and derived vectors of spec/95_test_vectors.md; and for each statement with hypotheses a witness that meets
them. -/

namespace Sys2Proof.Tests

open Sys2Proof Sys2Proof.Machine

/-! ## Well-formedness: each check refuses an ill-formed term and takes its nearest well-formed neighbour -/

theorem test_wf_component_refuses_width_zero :
    Component.wf (.adder 0) = false ∧ Component.wf (.not 0) = false ∧ Component.wf (.decoder 0) = false ∧
    Component.wf (.alu 0) = false ∧ Component.wf (.adder 1) = true ∧ Component.wf .fullAdder = true := by decide

theorem test_wf_word_refuses_out_of_range :
    (FieldValue.int 256).isWord 8 = false ∧ (FieldValue.int (-1)).isWord 8 = false ∧
    (FieldValue.bits [1]).isWord 8 = false ∧ (FieldValue.int 255).isWord 8 = true := by decide

theorem test_wf_nonnegative_refuses_negative :
    (FieldValue.int (-1)).isNonNegative = false ∧ (FieldValue.bits []).isNonNegative = false ∧
    (FieldValue.int 457).isNonNegative = true := by decide

theorem test_wf_bit_refuses_two :
    (FieldValue.int 2).isBit = false ∧ (FieldValue.bits [1]).isBit = false ∧ (FieldValue.int 1).isBit = true := by decide

theorem test_wf_bits_refuses_length_and_elements :
    (FieldValue.bits [0, 1]).isBits 3 = false ∧ (FieldValue.bits [0, 2, 0]).isBits 3 = false ∧
    (FieldValue.int 1).isBits 1 = false ∧ (FieldValue.bits [0, 1, 0]).isBits 3 = true := by decide

theorem test_wf_state_refuses_width_zero_and_bad_record :
    (State.resetAt 0).wf = false ∧
    (State.reset.recordAnswer { component := .negator 8, answer := .failed (.invalidRange .C) }).wf = false ∧
    (State.reset.recordAnswer { component := .negator 8, answer := .outputs [(.Y, .int 256)] }).wf = false ∧
    (State.reset.recordAnswer { component := .negator 8, answer := .outputs [(.Y, .int 255)] }).wf = true := by decide

/-! ## Decoding: one word of each row, its bits 2:0 written out from R48, the ignored bits as they come -/

theorem test_decode_or : decode 0b00001000#8 = .or 0b00001#5 := by decide
theorem test_decode_nand : decode 0b11111001#8 = .nand 0b11111#5 := by decide
theorem test_decode_nor : decode 0b00000010#8 = .nor 0b00000#5 := by decide
theorem test_decode_and : decode 0b11111011#8 = .and 0b11111#5 := by decide
theorem test_decode_add : decode 0b00001100#8 = .add 0b00001#5 := by decide
theorem test_decode_sub : decode 0b00001101#8 = .sub 0b00001#5 := by decide
theorem test_decode_mul : decode 0b10000110#8 = .mul 0b10000#5 := by decide
theorem test_decode_rsvd7 : decode 0b00010111#8 = .rsvd7 0b00010#5 := by decide

theorem test_decode_rejects_by_length :
    decodeBytes [] = .error .noByte ∧ decodeBytes [0, 0] = .error .longerThanOneByte := by decide

theorem test_decode_table_word : decodeTableWord 8 0x06 = some (.mul 0) ∧ decodeTableWord 8 0x07 = some (.rsvd7 0) ∧
    decodeTableWord 9 0x06 = none := by decide

/-- R46, spec/95 section 2.2: the ALU's decode of ADD. -/
theorem test_enable_vector_of_add : enableVector 4 = #v[0, 0, 0, 0, 1, 0, 0, 0] := by decide

/-- R63, one row printed by hand: (A, B) = (0, 1). -/
theorem test_gate_row : gateRow 0 1 = { A := 0, B := 1, NAND := 1, AND := 0, OR := 1, NOR := 0, XOR := 1, XNOR := 0 } := by
  decide

/-! ## One evaluation of each opcode, N = 8 (spec/95 section 2.6) -/

/-- The state of an ALU of width 8 with these values on its ports. -/
def ports8 (a b : Word 8) (op : OpByte) : State := (State.resetAt 8).present a b op

/-- The value on `Y` after one step, if there is a next state. -/
def shown (s : State) : Option Nat :=
  match step s with
  | .next t => some t.Y.toNat
  | .fault _ => none
  | .refused _ => none

theorem test_or : shown (ports8 200 45 0x00) = some 237 ∧ shown (ports8 127 1 0x10) = some 127 := by decide
theorem test_nand : shown (ports8 200 45 0x01) = some 247 ∧ shown (ports8 255 255 0xF9) = some 0 := by decide
theorem test_nor : shown (ports8 200 45 0x02) = some 18 ∧ shown (ports8 0 0 0xFA) = some 255 := by decide
theorem test_and : shown (ports8 200 45 0x03) = some 8 ∧ shown (ports8 13 19 0xFB) = some 1 := by decide
theorem test_add : shown (ports8 200 45 0x04) = some 245 ∧ shown (ports8 200 100 0x0C) = some 44 := by decide +kernel
theorem test_sub : shown (ports8 200 45 0x05) = some 155 ∧ shown (ports8 45 200 0x0D) = some 101 := by decide +kernel
theorem test_mul : shown (ports8 200 45 0x06) = some 40 ∧ shown (ports8 170 85 0xFE) = some 114 := by decide +kernel
theorem test_rsvd7 : shown (ports8 200 45 0x07) = some 0 ∧ shown (ports8 200 200 0xFF) = some 0 := by decide

/-- The opcode byte driven onto the port is what the next step evaluates. -/
theorem test_withFetchWord_runs : step (State.reset.withFetchWord 8 0x06) = exec (.mul 0) (State.reset.withFetchWord 8 0x06) := by
  rfl

/-! ## Components (spec/95 sections 1, 2.2 to 2.5) -/

theorem test_splitter_lsb_first : splitter (200 : Word 8) = #v[0, 0, 0, 1, 0, 0, 1, 1] := by decide
theorem test_hub : hub (#v[1, 0, 1, 1, 0, 1, 0, 0] : BitVector 8) = 45 := by decide
theorem test_decoder2 : decoder (#v[1, 0] : BitVector 2) = #v[0, 1, 0, 0] := by decide
theorem test_switch : switch (245 : Word 8) 1 = 245 ∧ switch (255 : Word 8) 0 = 0 := by decide
theorem test_adder_source_example : adder (120 : Word 8) 98 1 = { SUM := 219, CARRY := 0 } := by decide +kernel
theorem test_adder_ripples_through : adder (85 : Word 8) 170 1 = { SUM := 0, CARRY := 1 } := by decide +kernel
theorem test_adder_carries :
    (List.range 9).map (carryAt (splitter (120 : Word 8)) (splitter (98 : Word 8)) 1) = [1, 0, 0, 0, 0, 0, 1, 1, 0] := by
  decide +kernel
theorem test_adder32 : adder (0x12345678 : Word 32) 0x9ABCDEF0 0 = { SUM := 0xACF13568, CARRY := 0 } := by decide +kernel
theorem test_negator : negator (5 : Word 8) = 251 ∧ negator (128 : Word 8) = 128 := by decide +kernel
theorem test_subtractor : subtractor (3 : Word 8) 5 = 254 ∧ subtractor (127 : Word 8) 255 = 128 := by decide +kernel
theorem test_multiplier : multiplier (13 : Word 8) 19 = 247 ∧ multiplier (255 : Word 8) 128 = 128 := by decide +kernel
theorem test_multiplier_rows : (List.range 8).map (slot0At (200 : Word 8) 45) = [200, 200, 232, 40, 40, 40, 40, 40] := by
  decide +kernel

/-! ## The integer-valued interface (spec/95 section 2.7) -/

theorem test_call_missing_c : run (.adder 8) [(.A, .int 1), (.B, .int 2)] = .fault (.missingField .C) := by rfl
theorem test_call_c_out_of_range :
    run (.adder 8) [(.A, .int 1), (.B, .int 2), (.C, .int (-1))] = .fault (.invalidRange .C) := by rfl
theorem test_call_missing_ranks_first : run (.adder 8) [(.B, .int 2), (.C, .int 2)] = .fault (.missingField .A) := by rfl
theorem test_call_alu_missing_op : run (.alu 8) [(.A, .int 1), (.B, .int 2)] = .fault (.missingField .op) := by rfl
theorem test_call_splitter_missing : run (.splitter 8) [] = .fault (.missingField .W) := by rfl
theorem test_call_truncates :
    run (.adder 8) [(.A, .int 300), (.B, .int 2), (.C, .int 0)] = .next [(.SUM, .int 46), (.CARRY, .int 0)] := by rfl
theorem test_call_hub_refuses_garbage :
    run (.hub 2) [(.BITS, .bits [2, 0])] = .refused (.outOfType (.hub 2)) := by rfl

/-! ## Constants -/

/-- R5, R6. -/
theorem test_constants : Config.slotCount = 2 ^ Config.decoderWidth ∧ Config.functionCount + 1 = Config.slotCount ∧
    Config.resetWidth ∈ Config.documentWidths := by decide

/-! ## Witnesses: concrete values that meet the hypotheses of the statements -/

/-- A `run` call that succeeds, one that fails, and one that is refused. -/
def goodCall : Call := { component := .adder 8, inputs := [(.A, .int 120), (.B, .int 98), (.C, .int 1)] }
def failingCall : Call := { component := .adder 8, inputs := [(.A, .int 1), (.B, .int 2), (.C, .int 2)] }
def refusedCall : Call := { component := .hub 2, inputs := [(.BITS, .bits [2, 0])] }

theorem witness_StepRunsTheOpcode : (ports8 200 45 0x04).call = none := rfl

theorem witness_DatapathIsMultiplexer :
    (0x08 : OpByte).toNat % 8 = (0 : Fin 7).val ∧ (0xFE : OpByte).toNat % 8 = (6 : Fin 7).val ∧
    (0xFF : OpByte).toNat % 8 = 7 := by decide

theorem witness_StepShowsTheDatapath : (ports8 200 45 0xFF).call = none := rfl

theorem witness_ResetMeetsTheInvariant : 1 ≤ 1 ∧ 1 ≤ 32 := by decide

/-- The three ways a step keeps the invariant: an evaluation of the ALU, a call that succeeds, a call that fails. -/
theorem witness_StepKeepsTheInvariant_evaluation :
    State.reset.Inv ∧ step State.reset = .next (State.reset.setY 0) := ⟨by decide +kernel, rfl⟩
theorem witness_StepKeepsTheInvariant_call :
    (State.reset.presentCall goodCall).Inv ∧
    step (State.reset.presentCall goodCall) = .next ((State.reset.presentCall goodCall).recordAnswer
      { component := .adder 8, answer := .outputs [(.SUM, .int 219), (.CARRY, .int 0)] }) :=
  ⟨by decide +kernel, rfl⟩
theorem witness_StepKeepsTheInvariant_failure :
    (State.reset.presentCall failingCall).Inv ∧
    step (State.reset.presentCall failingCall) =
      .next (takePreconditionFailure (.adder 8) (.invalidRange .C) (State.reset.presentCall failingCall)) :=
  ⟨by decide +kernel, rfl⟩

/-- Both hypotheses of the clauses on the ALU; the clause on calls has none. -/
theorem witness_EvaluationsAreIndependent :
    State.reset.call = none ∧ step State.reset = .next (State.reset.setY 0) := ⟨rfl, rfl⟩

/-- Both sides of the clause on refused calls, at a call that is refused; and the premise of the middle clause. -/
theorem witness_OnlyCallsAreRefused :
    step (State.reset.presentCall refusedCall) = .refused (.outOfType (.hub 2)) ∧
    run refusedCall.component refusedCall.inputs = .refused (.outOfType (.hub 2)) := ⟨rfl, rfl⟩

theorem witness_GatesActLaneByLane : 0 < 1 ∧ 7 < 8 := by decide
theorem witness_SplitterHubRoundTrip : 1 ≤ 1 ∧ 1 ≤ 8 := by decide
theorem witness_DecoderIsOneHot : (0 : Fin (2 ^ 3)) ≠ 7 ∧
    decoder (#v[1, 1, 1] : BitVector 3) = decoder (#v[1, 1, 1] : BitVector 3) := ⟨by decide, rfl⟩
theorem witness_DecoderNetlistComputesDecoder : 1 ≤ 1 ∧ 1 ≤ 3 := by decide
theorem witness_SwitchNetlistComputesSwitch : 0 < 8 ∧ 7 < 8 := by decide
theorem witness_SelectByOr : (#v[0, 0, 1] : BitVector 3)[(2 : Fin 3)] = 1 ∧
    ∀ j : Fin 3, j ≠ 2 → (#v[0, 0, 1] : BitVector 3)[j] = 0 := by decide
theorem witness_RippleCarryAdderAdds : 0 ≤ 8 ∧ 8 ≤ 8 := by decide
theorem witness_NegatorNegates : (127 : Word 8) ≠ BitVec.ofNat 8 (2 ^ (8 - 1)) := by decide
theorem witness_MultiplierRowInvariant : 0 < 8 ∧ 7 < 8 := by decide
theorem witness_ShiftedMultiplicandLanes : 0 < 8 ∧ 7 < 8 := by decide

theorem witness_MissingFieldFails : (Component.adder 8).wf = true ∧ .C ∈ (inputPorts (.adder 8)).map Prod.fst ∧
    field [(.A, .int 1), (.B, .int 2)] .C = none := by decide
/-- What two failing calls may differ in, and what not (U13). -/
theorem test_missing_name_is_open :
    CallRecord.sameButForMissingName { component := .adder 8, answer := .failed (.missingField .A) }
      { component := .adder 8, answer := .failed (.missingField .B) } = true ∧
    CallRecord.sameButForMissingName { component := .adder 8, answer := .failed (.missingField .C) }
      { component := .adder 8, answer := .failed (.invalidRange .C) } = false := by decide
/-- The premise of the inner clause: only `C` is absent. -/
theorem witness_MissingFieldFails_alone : ∀ h : PortName, h ∈ (inputPorts (.adder 8)).map Prod.fst →
    field [(.A, .int 1), (.B, .int 2)] h = none → h = .C := by
  intro h; cases h <;> decide

theorem witness_DecodeEncodeRoundTrip : decodeBytes [0x0C] = .ok (.add 1) ∧ [0x0C] = encodeBytes (.add 1) := by decide

theorem witness_CarryInOutOfRangeFails :
    field failingCall.inputs .A = some (.int 1) ∧ field failingCall.inputs .B = some (.int 2) ∧
    field failingCall.inputs .C = some (.int 2) ∧ (2 : Int) ≠ 0 ∧ (2 : Int) ≠ 1 ∧ 1 ≤ 1 ∧
    run failingCall.component failingCall.inputs = .fault (.invalidRange .C) :=
  ⟨rfl, rfl, rfl, by decide, by decide, by decide, rfl⟩
/-- The nearest value below the range of the carry-in. -/
theorem witness_CarryInOutOfRangeFails_negative :
    field [(.A, .int 1), (.B, .int 2), (.C, .int (-1))] .C = some (.int (-1)) ∧ (-1 : Int) ≠ 0 ∧ (-1 : Int) ≠ 1 := by decide

theorem witness_NoOtherFailure_missing :
    run (.adder 8) [(.A, .int 1), (.B, .int 2)] = .fault (.missingField .C) := rfl
theorem witness_NoOtherFailure_range :
    run failingCall.component failingCall.inputs = .fault (.invalidRange .C) := rfl

theorem witness_MissingFieldRanksFirst :
    field [(.B, .int 2), (.C, .int 2)] .A = none ∧ field [(.B, .int 2), (.C, .int 2)] .B ≠ none ∧
    field [(.B, .int 2), (.C, .int 2)] .C = some (.int 2) ∧ 1 ≤ 1 := by decide
theorem witness_MissingFieldRanksFirst_any :
    Component.fullAdder.wf = true ∧ rangeChecksCarry .fullAdder = true ∧ .B ∈ (inputPorts .fullAdder).map Prod.fst ∧
    field [(.A, .int 1), (.C, .int (-1))] .B = none ∧
    field [(.A, .int 1), (.C, .int (-1))] .C = some (.int (-1)) ∧ (FieldValue.int (-1)).isBit = false := by decide

theorem witness_DutifulCallsSucceed : callerDuties goodCall.component goodCall.inputs = true ∧
    callerDuties (.alu 8) [(.A, .int 255), (.B, .int 0), (.op, .int 255)] = true ∧
    callerDuties (.hub 2) [(.BITS, .bits [1, 0])] = true := by decide

theorem witness_AdderCallTruncatesOperands : 1 ≤ 1 ∧ 0 ≤ 1 ∧ 1 ≤ 1 := by decide
theorem witness_AluCallComputesReference : 1 ≤ 1 ∧ 1 ≤ 32 := by decide

/-- The general clause at the two fields of one call where truncation ends: a negative Adder operand is refused (the
carry-in being in range), an over-wide one is accepted. -/
theorem witness_OutOfTypeValuesRefused :
    (Component.adder 8).wf = true ∧
    (∀ p ∈ inputPorts (.adder 8), field [(.A, .int 1), (.B, .int (-1)), (.C, .int 1)] p.1 ≠ none) ∧
    field [(.A, .int 1), (.B, .int (-1)), (.C, .int 1)] .C = some (.int 1) ∧ (.B, .word 8) ∈ inputPorts (.adder 8) ∧
    fieldAccepted (.adder 8) .B (.word 8) (.int (-1)) = false ∧ fieldAccepted (.adder 8) .B (.word 8) (.int 256) = true := by
  decide
theorem witness_OutOfTypeValuesRefused_zero_width : (Component.alu 0).wf = false := by decide
theorem witness_OutOfTypeValuesRefused_converse :
    run (.switch 8) [(.A, .int 1), (.S, .int 2)] = .refused (.outOfType (.switch 8)) := rfl
theorem witness_OutOfTypeValuesRefused_instances : 1 ≤ 8 ∧ (∃ v ∈ [(2 : Int), 0], v ≠ 0 ∧ v ≠ 1) ∧
    ((0 : Int) < 0 ∨ (2 : Int) ^ 8 ≤ 0 ∨ (256 : Int) < 0 ∨ (2 : Int) ^ 8 ≤ 256) ∧ (-1 : Int) < 0 := by decide

/-- One mapping that has every field, at the ends of their ranges and beyond where they are truncated. -/
def everyField : Fields := [(.A, .int 1), (.B, .int 0), (.C, .int 1), (.S, .int 0), (.op, .int 260), (.W, .int 457),
  (.BITS, .bits [1, 0]), (.IDX, .bits [1, 1])]

theorem witness_CallsAnswerTheTypedComponent : 1 ≤ 2 ∧
    field everyField .A = some (.int (1 : Word 2).toNat) ∧ field everyField .B = some (.int (0 : Word 2).toNat) ∧
    field everyField .A = some (.int (1 : Bit).toNat) ∧ field everyField .B = some (.int (0 : Bit).toNat) ∧
    field everyField .C = some (.int (1 : Bit).toNat) ∧ field everyField .S = some (.int (0 : Bit).toNat) ∧
    field everyField .op = some (.int (260 : Nat)) ∧ field everyField .W = some (.int (457 : Nat)) ∧
    field everyField .BITS = some (.bits ((#v[1, 0] : BitVector 2).toList.map fun x => (x.toNat : Int))) ∧
    field everyField .IDX = some (.bits ((#v[1, 1] : BitVector 2).toList.map fun x => (x.toNat : Int))) := by decide

theorem witness_FailedCallLeavesNoTrace :
    run failingCall.component failingCall.inputs = .fault (.invalidRange .C) ∧
    step (State.reset.presentCall failingCall) = .next (State.reset.recordAnswer
      { component := .adder 8, answer := .failed (.invalidRange .C) }) := ⟨rfl, rfl⟩

theorem witness_AnsweredCallIsRecorded :
    run goodCall.component goodCall.inputs = .next [(.SUM, .int 219), (.CARRY, .int 0)] := rfl

theorem witness_NetlistClosedForms : 1 ≤ 1 ∧ 1 ≤ 32 := by decide

end Sys2Proof.Tests
end

/-! PROOFS of the family spec/00_scope.md: one evaluation is the meaning of the byte on the opcode port. -/

namespace Sys2Proof

/-! ## The two fields of an encoded instruction, and its decoding (R43, R48) -/

theorem ignField_encode (i : Instr) : ignField (encode i) = i.ign :=
  BitVec.extractLsb'_append_eq_left

/-- Bits 2:0 of the byte are those of `opc`: the ignored bits start at bit 3. -/
theorem getLsbD_encode_of_lt (i : Instr) {k : Nat} (hk : k < 3) : (encode i).getLsbD k = i.opc.getLsbD k := by
  simp only [encode, BitVec.getLsbD_append, hk, if_true]

/-- The opcode byte of an instruction decodes to that instruction, with its ignored bits. -/
@[simp] theorem decode_encode (i : Instr) : decode (encode i) = i := by
  have bit0 := getLsbD_encode_of_lt i (k := 0) (by decide)
  have bit1 := getLsbD_encode_of_lt i (k := 1) (by decide)
  have bit2 := getLsbD_encode_of_lt i (k := 2) (by decide)
  rw [decode, ignField_encode, bit0, bit1, bit2]
  cases i <;> simp [Instr.opc, Instr.ign]

end Sys2Proof

namespace Sys2Proof.Machine

/-- An opcode byte driven as a word of 8 bits stands on the opcode port unchanged. -/
theorem State.withFetchWord_byte_op (s : State) (b : OpByte) : (s.withFetchWord 8 b.toNat).op = b := by
  rw [State.withFetchWord_op, Nat.mod_eq_of_lt b.isLt, BitVec.ofNat_toNat, BitVec.setWidth_eq]

/-- With a byte driven onto the opcode port, the step is the meaning of what the byte decodes to (R10, R40). -/
theorem step_withFetchWord_byte (s : State) (b : OpByte) :
    step (s.withFetchWord 8 b.toNat) = exec (decode b) (s.withFetchWord 8 b.toNat) := by
  rw [step_of_none (s.withFetchWord_call 8 b.toNat), State.withFetchWord_byte_op]

/-- Settles O5: the step without a presented call is `step_of_none`; a driven encoding decodes to its instruction. -/
theorem stepRunsTheOpcode : Obligations.StepRunsTheOpcode :=
  ⟨fun _ hcall => step_of_none hcall,
   fun s i => by rw [step_withFetchWord_byte, decode_encode]⟩

end Sys2Proof.Machine

/-! PROOFS of the family spec/10_state.md: evaluations show the datapath and share nothing, and the interface answers the
typed components. -/

namespace Sys2Proof.Machine

open Sys2Proof

/-! ## Splitter and Hub undo each other (R66, R68, R69) -/

/-- A sum that starts one position up is twice the sum that starts at position 0. -/
theorem hubSum_succ (i : Nat) (l : List Bit) : hubSum (i + 1) l = 2 * hubSum i l := by
  induction l generalizing i with
  | nil => rfl
  | cons b bs ih => rw [hubSum_cons, hubSum_cons, ih, pow_succ]; ring

/-- Bit `j` of the Hub's sum is element `j` of the sequence. -/
theorem testBit_hubSum (l : List Bit) (j : Nat) : (hubSum 0 l).testBit j = (l.getD j 0).getLsbD 0 := by
  induction l generalizing j with
  | nil => simp
  | cons b bs ih =>
    have hb : b.toNat < 2 := b.isLt
    rw [hubSum_cons, hubSum_succ, pow_zero, mul_one]
    cases j with
    | zero =>
      rw [Nat.testBit_zero, List.getD_cons_zero, ← BitVec.testBit_toNat, Nat.testBit_zero]
      congr 2; omega
    | succ j =>
      have half : (b.toNat + 2 * hubSum 0 bs) / 2 = hubSum 0 bs := by omega
      rw [Nat.testBit_succ, half, ih, List.getD_cons_succ]

theorem getLsbD_hub {n : Nat} (v : BitVector n) {i : Nat} (h : i < n) : (hub v).getLsbD i = (v[i]).getLsbD 0 := by
  rw [hub, BitVec.getLsbD_ofNat, testBit_hubSum]
  simp [h]

/-- Lane `i` of a Hub's Word is its element `i`. -/
@[simp] theorem lane_hub {n : Nat} (v : BitVector n) {i : Nat} (h : i < n) : lane (hub v) i = v[i] := by
  rw [lane_eq, getLsbD_hub v h]
  rcases bit_cases v[i] with hb | hb <;> rw [hb] <;> rfl

@[simp] theorem splitter_hub {n : Nat} (v : BitVector n) : splitter (hub v) = v := by
  ext1 i hi
  rw [splitter_getElem, lane_hub v hi]

@[simp] theorem hub_splitter {n : Nat} (w : Word n) : hub (splitter w) = w := by
  ext i hi
  rw [← BitVec.getLsbD_eq_getElem, getLsbD_hub _ hi, splitter_getElem, lane_eq]
  simp [hi]

/-! ## What the adders compute (R78 to R84, R90, R93) -/

theorem fullAdder_ofBool (a b c : Bool) :
    fullAdder (BitVec.ofBool a) (BitVec.ofBool b) (BitVec.ofBool c) =
      { SUM := BitVec.ofBool (a ^^ (b ^^ c)), CARRY := BitVec.ofBool (Bool.atLeastTwo a b c) } := by
  revert a b c; decide

/-- The ripple's carry into position `i` is the carry of binary addition. -/
theorem carryAt_splitter {n : Nat} (A B : Word n) (c : Bool) {i : Nat} (h : i ≤ n) :
    carryAt (splitter A) (splitter B) (BitVec.ofBool c) i = BitVec.ofBool (BitVec.carry i A B c) := by
  induction i with
  | zero => rw [carryAt_zero, BitVec.carry_zero]
  | succ i ih =>
    rw [carryAt_succ, ih (by omega), elem_splitter A i h, elem_splitter B i h, lane_eq, lane_eq, fullAdder_ofBool,
      BitVec.carry_succ]

/-- The ripple-carry Adder's sum is the sum of operands and carry-in modulo `2^n`. -/
theorem adder_SUM_eq_add {n : Nat} (A B : Word n) (c : Bool) :
    (adder A B (BitVec.ofBool c)).SUM = A + B + (BitVec.ofBool c).setWidth n := by
  rw [adder_SUM, ← hub_splitter (A + B + (BitVec.ofBool c).setWidth n)]
  congr 1
  ext1 i hi
  rw [Vector.getElem_ofFn, splitter_getElem, elem_splitter A i hi, elem_splitter B i hi,
    carryAt_splitter A B c hi.le, lane_eq, lane_eq, lane_eq, fullAdder_ofBool, BitVec.getLsbD_add_add_bool hi]

@[simp] theorem adder_constCarryIn_SUM {n : Nat} (A B : Word n) : (adder A B constCarryIn).SUM = A + B := by
  rw [show constCarryIn = BitVec.ofBool false from rfl, adder_SUM_eq_add]
  simp

@[simp] theorem negator_eq_neg {n : Nat} (A : Word n) : negator A = -A := by
  rw [negator, adder_constCarryIn_SUM, notGate_eq, BitVec.neg_eq_not_add]; rfl

@[simp] theorem subtractor_eq_sub {n : Nat} (A B : Word n) : subtractor A B = A - B := by
  rw [subtractor, subtractorAdder, adder_constCarryIn_SUM, negator_eq_neg, BitVec.sub_eq_add_neg]

/-! ## What the Multiplier computes (R97, R99) -/

theorem multiplicandAt_eq_shiftLeft {n : Nat} (A : Word n) (i : Nat) : multiplicandAt A i = A <<< i := by
  induction i with
  | zero => rw [multiplicandAt_zero, BitVec.shiftLeft_zero]
  | succ i ih => rw [multiplicandAt_succ, ih, BitVec.shiftLeft_add]

theorem partialProduct_eq_ite {n : Nat} (A B : Word n) {i : Nat} (h : i < n) :
    partialProduct A B i = if B.getLsbD i then A <<< i else 0 := by
  rw [partialProduct, multiplicandAt_eq_shiftLeft, elem_splitter B i h, lane_eq]
  cases B.getLsbD i
  · exact switch_zero _
  · exact switch_one _

/-- The accumulator bus after row `i` is shift-and-add multiplication up to bit `i` of the multiplier. -/
theorem slot0At_eq_mulRec {n : Nat} (A B : Word n) {i : Nat} (h : i < n) : slot0At A B i = A.mulRec B i := by
  induction i with
  | zero => rw [slot0At_zero, partialProduct_eq_ite A B h, BitVec.mulRec_zero_eq, BitVec.shiftLeft_zero]
  | succ i ih =>
    rw [slot0At_succ, adder_constCarryIn_SUM, ih (by omega), partialProduct_eq_ite A B h, BitVec.mulRec_succ_eq]

@[simp] theorem multiplier_eq_mul {n : Nat} (A B : Word n) : multiplier A B = A * B := by
  cases n with
  | zero => exact Subsingleton.elim _ _
  | succ n =>
    rw [multiplier, slot0At_eq_mulRec A B (by omega), BitVec.mulRec_eq_mul_signExtend_setWidth]
    simp

/-! ## The datapath shows the unit that the opcode selects (R105 to R111) -/

/-- What the unit that an instruction selects shows for its operands, 0 for the reserved slot. -/
def unitOutput {n : Nat} (A B : Word n) : Instr → Word n
  | .or _ => orGate A B
  | .nand _ => nandGate A B
  | .nor _ => norGate A B
  | .and _ => andGate A B
  | .add _ => (adder A B constCarryIn).SUM
  | .sub _ => subtractor A B
  | .mul _ => multiplier A B
  | .rsvd7 _ => constZero n

/-- The meaning of an instruction is to show its unit's output. -/
theorem exec_eq_unitOutput (i : Instr) (s : State) : exec i s = .next (s.setY (unitOutput s.A s.B i)) := by
  cases i <;> rfl

/-- The three bits at the Decoder give the number of the decoded row (R46, R48). -/
theorem hub_low_opcode_bits (op : OpByte) :
    (hub #v[elem (splitter op) 0, elem (splitter op) 1, elem (splitter op) 2]).toNat = (decode op).opc.toNat := by
  have bit (k : Nat) (hk : k < 8) : elem (splitter op) k = BitVec.ofBool (op.getLsbD k) := by
    rw [elem_splitter op k hk, lane_eq]
  rw [bit 0 (by decide), bit 1 (by decide), bit 2 (by decide), decode]
  cases op.getLsbD 2 <;> cases op.getLsbD 1 <;> cases op.getLsbD 0 <;> rfl

/-- The enable vector is one-hot at the decoded row's number. -/
theorem enableVector_getElem (op : OpByte) (k : Nat) (h : k < 8) :
    (enableVector op)[k] = if k = (decode op).opc.toNat then 1 else 0 := by
  rw [← hub_low_opcode_bits]
  exact decoder_getElem _ k h

/-- A Switch whose select Bit says whether `p` holds. -/
theorem switch_ite {n : Nat} (A : Word n) (p : Prop) [Decidable p] :
    switch A (if p then 1 else 0) = if p then A else 0 := by
  split
  · exact switch_one A
  · exact switch_zero A

/-- Gating by a vector that is one-hot at an instruction's number, and OR-reduction, leave that instruction's unit. -/
theorem orTree_aluSlots_of_oneHot {n : Nat} (A B : Word n) (i : Instr) {en : BitVector 8}
    (hen : ∀ (k : Nat) (h : k < 8), en[k] = if k = i.opc.toNat then 1 else 0) :
    orTree (aluSlots (aluFunctions A B) en) = unitOutput A B i := by
  simp only [orTree, aluSlots, hen, switch_ite, orGate_eq]
  cases i <;> simp [aluFunctions, unitOutput, Instr.opc, constZero, orGate_eq]

theorem alu_eq_unitOutput {n : Nat} (A B : Word n) (op : OpByte) : alu A B op = unitOutput A B (decode op) :=
  orTree_aluSlots_of_oneHot A B (decode op) (enableVector_getElem op)

/-- The datapath computes the reference function of R111. -/
theorem alu_eq_aluReference {n : Nat} (A B : Word n) (op : OpByte) : alu A B op = aluReference A B op := by
  rw [alu_eq_unitOutput, decode, aluReference]
  cases op.getLsbD 2 <;> cases op.getLsbD 1 <;> cases op.getLsbD 0 <;>
    simp [unitOutput, orGate_eq, nandGate_eq, norGate_eq, andGate_eq, constZero]

/-! ## What a step does, in terms of the datapath and of `run` -/

/-- A step without a presented call shows the datapath's function of the ports and does nothing else. -/
theorem step_of_none_eq_alu {s : State} (h : s.call = none) : step s = .next (s.setY (alu s.A s.B s.op)) := by
  rw [step_of_none h, exec_eq_unitOutput, alu_eq_unitOutput]

@[simp] theorem State.recordAnswer_presentCall (s : State) (c : Call) (r : CallRecord) :
    (s.presentCall c).recordAnswer r = s.recordAnswer r := rfl

theorem step_presentCall_of_next {s : State} {c : Call} {outs : Fields} (h : run c.component c.inputs = .next outs) :
    step (s.presentCall c) = .next (s.recordAnswer { component := c.component, answer := .outputs outs }) := by
  rw [step_of_some (s.presentCall_call c), h, finishCall_next, State.recordAnswer_presentCall]

theorem step_presentCall_of_fault {s : State} {c : Call} {r : Fault} (h : run c.component c.inputs = .fault r) :
    step (s.presentCall c) = .next (s.recordAnswer { component := c.component, answer := .failed r }) := by
  rw [step_of_some (s.presentCall_call c), h, finishCall_fault, takePreconditionFailure, State.recordAnswer_presentCall]

theorem step_presentCall_of_refused {s : State} {c : Call} {x : Refusal} (h : run c.component c.inputs = .refused x) :
    step (s.presentCall c) = .refused x := by
  rw [step_of_some (s.presentCall_call c), h, finishCall_refused]

/-- Settles O55: `step_presentCall_of_next` at every state. -/
theorem answeredCallIsRecorded : Obligations.AnsweredCallIsRecorded :=
  fun _ _ _ h => step_presentCall_of_next h

/-! ## How a call ends does not depend on the state (R35, R37, R141) -/

theorem CallRecord.sameButForMissingName_refl (r : CallRecord) : r.sameButForMissingName r = true := by
  obtain ⟨c, outs | f | f⟩ := r <;> simp [CallRecord.sameButForMissingName]

/-- Any two states end a presented call alike: `run` sees the call only. -/
theorem endsAlike_all (c : Call) (s t : State) : endsAlike c s t := by
  cases h : run c.component c.inputs with
  | next outs =>
    exact .inl ⟨_, _, CallRecord.sameButForMissingName_refl _,
      step_presentCall_of_next h, step_presentCall_of_next h⟩
  | fault r =>
    exact .inl ⟨_, _, CallRecord.sameButForMissingName_refl _,
      step_presentCall_of_fault h, step_presentCall_of_fault h⟩
  | refused x => exact .inr ⟨x, step_presentCall_of_refused h, step_presentCall_of_refused h⟩

/-- Settles O25: the datapath's function reads only `A`, `B` and `op`, and `run` only the call. -/
theorem evaluationsAreIndependent : Obligations.EvaluationsAreIndependent := by
  refine ⟨fun s y hs => ?_, fun s t r hs hst => ?_, endsAlike_all⟩
  · rw [step_of_none_eq_alu hs, step_of_none_eq_alu (s := s.setY y) hs]; rfl
  · rw [step_of_none_eq_alu hs] at hst
    cases hst
    exact ⟨step_of_none_eq_alu (s := s.recordAnswer r) rfl, step_of_none_eq_alu (s := s.setY _) hs⟩

/-! ## A value written to an output field is in its port's type (R14, R24) -/

@[simp] theorem isWord_ofWord {n : Nat} (w : Word n) : (ofWord w).isWord n = true := by
  have hw : (w.toNat : Int) < 2 ^ n := by exact_mod_cast w.isLt
  simp [ofWord, FieldValue.isWord, hw]

@[simp] theorem isBit_ofWord (b : Bit) : (ofWord b).isBit = true := by
  revert b; decide

@[simp] theorem isBits_ofBits {n : Nat} (v : BitVector n) : (ofBits v).isBits n = true := by
  simp only [ofBits, FieldValue.isBits, List.length_map, Vector.length_toList, List.all_map, decide_true, Bool.true_and,
    List.all_eq_true]
  exact fun b _ => isBit_ofWord b

/-! ## Where the typed component answers, every port was read and every output is in its type -/

/-- What an answer of the typed component says of the mapping and of the outputs: no required field was absent, a checked
carry-in was a Bit, and the outputs are the component's ports in their types. -/
structure AnswersPorts (c : Component) (m outs : Fields) : Prop where
  present : ∀ p ∈ inputPorts c, (field m p.1).isSome = true
  carry : rangeChecksCarry c = true → carryInRange m = true
  typed : fieldsMatch (outputPorts c) outs = true

theorem field_isSome_of_wordExact {n : Nat} {m : Fields} {f : PortName} {w : Word n} (h : wordExact n m f = some w) :
    (field m f).isSome = true := by
  obtain ⟨v, hv, _⟩ := wordExact_some h
  rw [hv]; rfl

theorem field_isSome_of_wordTruncated {n : Nat} {m : Fields} {f : PortName} {w : Word n}
    (h : wordTruncated n m f = some w) : (field m f).isSome = true := by
  obtain ⟨v, hv, _⟩ := wordTruncated_some h
  rw [hv]; rfl

theorem field_isSome_of_bitExact {m : Fields} {f : PortName} {b : Bit} (h : bitExact m f = some b) :
    (field m f).isSome = true := by
  obtain ⟨v, hv, _⟩ := bitExact_some h
  rw [hv]; rfl

theorem field_isSome_of_bitsExact {n : Nat} {m : Fields} {f : PortName} {v : BitVector n}
    (h : bitsExact n m f = some v) : (field m f).isSome = true := by
  obtain ⟨l, hl, _⟩ := bitsExact_some h
  rw [hl]; rfl

theorem carryInRange_of_bitExact {m : Fields} {b : Bit} (h : bitExact m .C = some b) : carryInRange m = true := by
  obtain ⟨v, hv, hbit, _⟩ := bitExact_some h
  simpa [carryInRange, hv, FieldValue.isBit] using hbit

theorem absentFields_eq_nil {c : Component} {m : Fields} (h : ∀ p ∈ inputPorts c, (field m p.1).isSome = true) :
    absentFields c m = [] := by
  rw [List.eq_nil_iff_forall_not_mem]
  intro f hf
  obtain ⟨hport, habsent⟩ := mem_absentFields.mp hf
  obtain ⟨p, hp, rfl⟩ := List.mem_map.mp hport
  simpa [habsent] using h p hp

/-! The output fields of each kind of component match its ports. -/

@[simp] theorem fieldsMatch_word {n : Nat} (f : PortName) (w : Word n) :
    fieldsMatch [(f, .word n)] [(f, ofWord w)] = true := by
  simp [fieldsMatch, FieldValue.hasType]

@[simp] theorem fieldsMatch_bits {n : Nat} (f : PortName) (v : BitVector n) :
    fieldsMatch [(f, .bits n)] [(f, ofBits v)] = true := by
  simp [fieldsMatch, FieldValue.hasType]

@[simp] theorem fieldsMatch_ofSumCarry_word {n : Nat} (r : SumCarry n) :
    fieldsMatch [(.SUM, .word n), (.CARRY, .bit)] (ofSumCarry r) = true := by
  simp [fieldsMatch, ofSumCarry, FieldValue.hasType]

@[simp] theorem fieldsMatch_ofSumCarry_bit (r : SumCarry 1) :
    fieldsMatch [(.SUM, .bit), (.CARRY, .bit)] (ofSumCarry r) = true := by
  simp [fieldsMatch, ofSumCarry, FieldValue.hasType]

theorem evaluate_answersPorts {c : Component} {m outs : Fields} (h : evaluate c m = some outs) :
    AnswersPorts c m outs := by
  cases c <;> simp only [evaluate, runGate, Option.bind_eq_bind, Option.bind_eq_some_iff, Option.some.injEq] at h
  case not =>
    obtain ⟨a, ha, rfl⟩ := h
    exact ⟨by simp [inputPorts, field_isSome_of_wordExact ha], nofun, fieldsMatch_word _ _⟩
  case nand | and | or | nor | xor | xnor =>
    obtain ⟨a, ha, b, hb, rfl⟩ := h
    exact ⟨by simp [inputPorts, field_isSome_of_wordExact ha, field_isSome_of_wordExact hb], nofun,
      fieldsMatch_word _ _⟩
  case splitter =>
    obtain ⟨w, hw, rfl⟩ := h
    exact ⟨by simp [inputPorts, field_isSome_of_wordTruncated hw], nofun, fieldsMatch_bits _ _⟩
  case hub =>
    obtain ⟨v, hv, rfl⟩ := h
    exact ⟨by simp [inputPorts, field_isSome_of_bitsExact hv], nofun, fieldsMatch_word _ _⟩
  case decoder =>
    obtain ⟨v, hv, rfl⟩ := h
    exact ⟨by simp [inputPorts, field_isSome_of_bitsExact hv], nofun, fieldsMatch_bits _ _⟩
  case switch =>
    obtain ⟨a, ha, s, hs, rfl⟩ := h
    exact ⟨by simp [inputPorts, field_isSome_of_wordExact ha, field_isSome_of_bitExact hs], nofun,
      fieldsMatch_word _ _⟩
  case halfAdder =>
    obtain ⟨a, ha, b, hb, rfl⟩ := h
    exact ⟨by simp [inputPorts, field_isSome_of_bitExact ha, field_isSome_of_bitExact hb], nofun,
      fieldsMatch_ofSumCarry_bit _⟩
  case fullAdder =>
    obtain ⟨a, ha, b, hb, c, hc, rfl⟩ := h
    exact ⟨by simp [inputPorts, field_isSome_of_bitExact ha, field_isSome_of_bitExact hb, field_isSome_of_bitExact hc],
      fun _ => carryInRange_of_bitExact hc, fieldsMatch_ofSumCarry_bit _⟩
  case adder =>
    obtain ⟨a, ha, b, hb, c, hc, rfl⟩ := h
    exact ⟨by simp [inputPorts, field_isSome_of_wordTruncated ha, field_isSome_of_wordTruncated hb,
        field_isSome_of_bitExact hc],
      fun _ => carryInRange_of_bitExact hc, fieldsMatch_ofSumCarry_word _⟩
  case negator =>
    obtain ⟨a, ha, rfl⟩ := h
    exact ⟨by simp [inputPorts, field_isSome_of_wordTruncated ha], nofun, fieldsMatch_word _ _⟩
  case subtractor | multiplier =>
    obtain ⟨a, ha, b, hb, rfl⟩ := h
    exact ⟨by simp [inputPorts, field_isSome_of_wordTruncated ha, field_isSome_of_wordTruncated hb], nofun,
      fieldsMatch_word _ _⟩
  case alu =>
    obtain ⟨a, ha, b, hb, op, hop, rfl⟩ := h
    exact ⟨by simp [inputPorts, field_isSome_of_wordExact ha, field_isSome_of_wordExact hb,
        field_isSome_of_wordTruncated hop],
      nofun, fieldsMatch_word _ _⟩

/-- A call of a component that can be built answers what the typed component answers: neither check can then fail. -/
theorem run_of_evaluate {c : Component} {m outs : Fields} (hwf : c.wf = true) (h : evaluate c m = some outs) :
    run c m = .next outs := by
  obtain ⟨hpresent, hcarry, _⟩ := evaluate_answersPorts h
  have carryOk : (rangeChecksCarry c && !carryInRange m) = false := by
    cases hc : rangeChecksCarry c
    · rfl
    · simp [hcarry hc]
  simp [run, hwf, absentFields_eq_nil hpresent, carryOk, h]

/-! ## The invariant (R14, R86, R136, R140, R147, R153) -/

/-- The record of a call that succeeded is well formed. -/
theorem CallRecord.wf_of_run_next {c : Component} {m outs : Fields} (h : run c m = .next outs) :
    CallRecord.wf { component := c, answer := .outputs outs } = true := by
  obtain ⟨hwf, _, heval⟩ := run_next h
  simp [CallRecord.wf, hwf, (evaluate_answersPorts heval).typed]

/-- A failed call is of a component that can be built, and its cause is an absent required field or a checked carry-in. -/
theorem run_fault {c : Component} {m : Fields} {r : Fault} (h : run c m = .fault r) :
    c.wf = true ∧ ((∃ f, r = .missingField f ∧ f ∈ (inputPorts c).map Prod.fst ∧ field m f = none) ∨
      (r = .invalidRange .C ∧ rangeChecksCarry c = true ∧ carryInRange m = false)) := by
  rcases run_cases c m with ⟨_, e⟩ | ⟨hwf, f, fs, habsent, e⟩ |
      ⟨hwf, _, ⟨hchecks, hrange, e⟩ | ⟨_, ⟨_, _, e⟩ | ⟨_, e⟩⟩⟩ <;>
    rw [e] at h <;> cases h
  · have hmem : namedMissing c m f fs ∈ absentFields c m := habsent ▸ namedMissing_mem c m f fs
    exact ⟨hwf, .inl ⟨_, rfl, mem_absentFields.mp hmem⟩⟩
  · exact ⟨hwf, .inr ⟨rfl, hchecks, hrange⟩⟩

/-- The record of a call that failed is well formed. -/
theorem CallRecord.wf_of_run_fault {c : Component} {m : Fields} {r : Fault} (h : run c m = .fault r) :
    CallRecord.wf { component := c, answer := .failed r } = true := by
  obtain ⟨hwf, ⟨f, rfl, hport, _⟩ | ⟨rfl, hchecks, _⟩⟩ := run_fault h
  · simpa [CallRecord.wf, hwf] using hport
  · simp [CallRecord.wf, hwf, hchecks]

theorem State.wf_iff (s : State) : s.wf = true ↔ 1 ≤ s.width ∧ ∀ r, s.result = some r → r.wf = true := by
  rw [State.wf, Bool.and_eq_true, decide_eq_true_eq]
  cases s.result <;> simp

/-- Recording a well-formed record keeps the invariant: the ports are left alone. -/
theorem State.Inv.recordAnswer {s : State} (h : s.Inv) {r : CallRecord} (hr : r.wf = true) : (s.recordAnswer r).Inv := by
  obtain ⟨hwf, hsettled⟩ := h
  obtain ⟨hwidth, _⟩ := s.wf_iff.mp hwf
  exact ⟨(State.wf_iff _).mpr ⟨hwidth, fun q hq => Option.some.inj hq ▸ hr⟩, hsettled⟩

/-- Showing the datapath's function on `Y` settles a well-formed state. -/
theorem State.Inv.setY_alu {s : State} (h : s.Inv) : (s.setY (alu s.A s.B s.op)).Inv := ⟨h.1, rfl⟩

/-- Settles O24: an evaluation shows the datapath's function, and a call leaves a well-formed record. -/
theorem stepKeepsTheInvariant : Obligations.StepKeepsTheInvariant := by
  intro s t hinv hstep
  rcases step_next_cases hstep with ⟨hcall, _⟩ | ⟨c, _, ⟨outs, hrun, rfl⟩ | ⟨r, hrun, rfl⟩⟩
  · rw [step_of_none_eq_alu hcall] at hstep
    cases hstep
    exact hinv.setY_alu
  · exact hinv.recordAnswer (CallRecord.wf_of_run_next hrun)
  · exact hinv.recordAnswer (CallRecord.wf_of_run_fault hrun)

/-! ## The calls of the components on fields in their types (R24 to R29, R135) -/

/-- A two-input gate on Words. -/
theorem runGate_of_ofWord {w : Nat} {m : Fields} {a b : Word w} (g : Word w → Word w → Word w)
    (ha : field m .A = some (ofWord a)) (hb : field m .B = some (ofWord b)) :
    runGate w g m = some [(.Y, ofWord (g a b))] := by
  simp [runGate, wordExact_of_ofWord ha, wordExact_of_ofWord hb]

/-- The call of a component whose typed form is a two-input gate. -/
theorem run_of_runGate {c : Component} {w : Nat} {m : Fields} {g : Word w → Word w → Word w} {a b : Word w}
    (hwf : c.wf = true) (hc : evaluate c m = runGate w g m) (ha : field m .A = some (ofWord a))
    (hb : field m .B = some (ofWord b)) : run c m = .next [(.Y, ofWord (g a b))] :=
  run_of_evaluate hwf (hc.trans (runGate_of_ofWord g ha hb))

theorem run_halfAdder {m : Fields} {a b : Bit} (ha : field m .A = some (ofWord a)) (hb : field m .B = some (ofWord b)) :
    run .halfAdder m = .next (ofSumCarry (halfAdder a b)) :=
  run_of_evaluate rfl (by simp [evaluate, bitExact_of_ofWord ha, bitExact_of_ofWord hb])

theorem run_fullAdder {m : Fields} {a b c : Bit} (ha : field m .A = some (ofWord a)) (hb : field m .B = some (ofWord b))
    (hc : field m .C = some (ofWord c)) : run .fullAdder m = .next (ofSumCarry (fullAdder a b c)) :=
  run_of_evaluate rfl (by simp [evaluate, bitExact_of_ofWord ha, bitExact_of_ofWord hb, bitExact_of_ofWord hc])

section calls

variable {n : Nat} {m : Fields} (hn : 1 ≤ n)
include hn

theorem run_not {a : Word n} (ha : field m .A = some (ofWord a)) : run (.not n) m = .next [(.Y, ofWord (notGate a))] :=
  run_of_evaluate (decide_eq_true hn) (by simp [evaluate, wordExact_of_ofWord ha])

theorem run_switch {a : Word n} {s : Bit} (ha : field m .A = some (ofWord a)) (hs : field m .S = some (ofWord s)) :
    run (.switch n) m = .next [(.Y, ofWord (switch a s))] :=
  run_of_evaluate (decide_eq_true hn) (by simp [evaluate, wordExact_of_ofWord ha, bitExact_of_ofWord hs])

theorem run_splitter {w : Nat} (hw : field m .W = some (.int w)) :
    run (.splitter n) m = .next [(.BITS, ofBits (splitter (BitVec.ofNat n w)))] :=
  run_of_evaluate (decide_eq_true hn) (by simp [evaluate, wordTruncated_of_nat hw])

theorem run_hub {v : BitVector n} (hv : field m .BITS = some (ofBits v)) :
    run (.hub n) m = .next [(.W, ofWord (hub v))] :=
  run_of_evaluate (decide_eq_true hn) (by simp [evaluate, bitsExact_of_ofBits hv])

theorem run_decoder {v : BitVector n} (hv : field m .IDX = some (ofBits v)) :
    run (.decoder n) m = .next [(.EN, ofBits (decoder v))] :=
  run_of_evaluate (decide_eq_true hn) (by simp [evaluate, bitsExact_of_ofBits hv])

theorem run_adder {a b : Nat} {c : Bit} (ha : field m .A = some (.int a)) (hb : field m .B = some (.int b))
    (hc : field m .C = some (ofWord c)) :
    run (.adder n) m = .next (ofSumCarry (adder (BitVec.ofNat n a) (BitVec.ofNat n b) c)) :=
  run_of_evaluate (decide_eq_true hn) (by
    simp [evaluate, wordTruncated_of_nat ha, wordTruncated_of_nat hb, bitExact_of_ofWord hc])

theorem run_negator {a : Nat} (ha : field m .A = some (.int a)) :
    run (.negator n) m = .next [(.Y, ofWord (negator (BitVec.ofNat n a)))] :=
  run_of_evaluate (decide_eq_true hn) (by simp [evaluate, wordTruncated_of_nat ha])

theorem run_subtractor {a b : Nat} (ha : field m .A = some (.int a)) (hb : field m .B = some (.int b)) :
    run (.subtractor n) m = .next [(.Y, ofWord (subtractor (BitVec.ofNat n a) (BitVec.ofNat n b)))] :=
  run_of_evaluate (decide_eq_true hn) (by simp [evaluate, wordTruncated_of_nat ha, wordTruncated_of_nat hb])

theorem run_multiplier {a b : Nat} (ha : field m .A = some (.int a)) (hb : field m .B = some (.int b)) :
    run (.multiplier n) m = .next [(.Y, ofWord (multiplier (BitVec.ofNat n a) (BitVec.ofNat n b)))] :=
  run_of_evaluate (decide_eq_true hn) (by simp [evaluate, wordTruncated_of_nat ha, wordTruncated_of_nat hb])

/-- The ALU's call: operands in range, the low 8 bits of any non-negative `op`. -/
theorem run_alu {a b : Word n} {op : Nat} (ha : field m .A = some (ofWord a)) (hb : field m .B = some (ofWord b))
    (hop : field m .op = some (.int op)) : run (.alu n) m = .next [(.Y, ofWord (alu a b (BitVec.ofNat 8 op)))] :=
  run_of_evaluate (decide_eq_true hn) (by
    simp [evaluate, wordExact_of_ofWord ha, wordExact_of_ofWord hb, wordTruncated_of_nat hop])

end calls

/-- Settles O52: the ALU's call on the three fields, with the datapath read as the reference function. -/
theorem aluCallComputesReference : Obligations.AluCallComputesReference := by
  intro n A B op hn
  rw [← alu_eq_aluReference]
  exact run_alu hn rfl rfl rfl

/-- Settles O59: the calls of the components, one by one. -/
theorem callsAnswerTheTypedComponent : Obligations.CallsAnswerTheTypedComponent := by
  intro n m hn
  have width : decide (1 ≤ n) = true := decide_eq_true hn
  refine ⟨fun a ha => ⟨run_not hn ha, fun s hs => run_switch hn ha hs, fun b hb => ?gates⟩,
    fun w hw => run_splitter hn hw, fun v hv => run_hub hn hv, fun v hv => run_decoder hn hv,
    fun a b ha hb => ⟨run_halfAdder ha hb, fun c hc => run_fullAdder ha hb hc⟩,
    fun a ha => ⟨run_negator hn ha, fun b hb =>
      ⟨run_subtractor hn ha hb, run_multiplier hn ha hb, fun c hc => run_adder hn ha hb hc⟩⟩⟩
  case gates =>
    exact ⟨run_of_runGate width rfl ha hb, run_of_runGate width rfl ha hb, run_of_runGate width rfl ha hb,
      run_of_runGate width rfl ha hb, run_of_runGate width rfl ha hb, run_of_runGate width rfl ha hb,
      fun op hop => run_alu hn ha hb hop⟩

end Sys2Proof.Machine

/-! PROOFS of the family spec/30_encoding.md: the opcode byte is its two fields, decoding and encoding undo each other, and
the low three bits alone select the row and the enable line. -/

namespace Sys2Proof

/-! ## The two fields of a decoded byte (R43, R48) -/

@[simp] theorem ign_decode (b : OpByte) : (decode b).ign = ignField b := by
  rw [decode]
  cases b.getLsbD 2 <;> cases b.getLsbD 1 <;> cases b.getLsbD 0 <;> rfl

theorem opcField_eq_append_bits (b : OpByte) :
    opcField b = BitVec.ofBool (b.getLsbD 2) ++ BitVec.ofBool (b.getLsbD 1) ++ BitVec.ofBool (b.getLsbD 0) := by
  refine BitVec.eq_of_getLsbD_eq fun k hk => ?_
  rw [BitVec.getLsbD_append, BitVec.getLsbD_append, opcField]
  match k, hk with
  | 0, _ | 1, _ | 2, _ => simp

/-- The row that a byte decodes to is the row whose number stands in its bits 2:0. -/
@[simp] theorem opc_decode (b : OpByte) : (decode b).opc = opcField b := by
  rw [opcField_eq_append_bits, decode]
  cases b.getLsbD 2 <;> cases b.getLsbD 1 <;> cases b.getLsbD 0 <;> rfl

/-- The two fields cover the byte, so no bit of it is dropped (R43). -/
theorem ignField_append_opcField (b : OpByte) : ignField b ++ opcField b = b := by
  rw [ignField, opcField, BitVec.extractLsb'_append_extractLsb'_eq_extractLsb' (by rfl)]
  exact BitVec.extractLsb'_eq_self

@[simp] theorem encode_decode (b : OpByte) : encode (decode b) = b := by
  rw [encode, ign_decode, opc_decode, ignField_append_opcField]

/-- A byte decodes to an instruction exactly when it is that instruction's encoding. -/
theorem decode_eq_iff {b : OpByte} {i : Instr} : decode b = i ↔ b = encode i :=
  ⟨fun h => by rw [← h, encode_decode], fun h => by rw [h, decode_encode]⟩

/-! ## Sequences of bytes (R51) -/

theorem decodeBytes_eq_ok_iff (l : List OpByte) (i : Instr) : decodeBytes l = .ok i ↔ l = encodeBytes i := by
  match l with
  | [] => simp [decodeBytes, encodeBytes]
  | [b] => simp [decodeBytes, encodeBytes, decode_eq_iff]
  | _ :: _ :: _ => simp [decodeBytes, encodeBytes]

/-- Settles O1: the fields of a byte and of an instruction determine each other, and only one byte is an instruction. -/
theorem decodeEncodeRoundTrip : Obligations.DecodeEncodeRoundTrip :=
  ⟨fun i => ⟨decode_encode i, (decodeBytes_eq_ok_iff _ i).2 rfl⟩, encode_decode, decodeBytes_eq_ok_iff, rfl,
   fun _ _ _ => rfl⟩

/-- Settles O2: each word is the encoding, ignored bits above `opc`, of the instruction that it is to decode to. -/
theorem specWordsDecode : Obligations.SpecWordsDecode :=
  ⟨decode_eq_iff.2 rfl, decode_eq_iff.2 rfl, decode_eq_iff.2 rfl, decode_eq_iff.2 rfl,
   decode_eq_iff.2 rfl, decode_eq_iff.2 rfl, decode_eq_iff.2 rfl, decode_eq_iff.2 rfl⟩

/-! ## The mask of the opcode table (R48, R50) -/

theorem opcField_toNat (b : OpByte) : (opcField b).toNat = b.toNat % 8 := by
  rw [opcField, BitVec.extractLsb'_toNat]
  rfl

/-- The mask 0x07 keeps the number in the field `opc` and nothing else. -/
theorem and_mask_toNat (b : OpByte) : (b &&& 0x07#8).toNat = (opcField b).toNat := by
  rw [BitVec.toNat_and, opcField_toNat]
  exact Nat.and_two_pow_sub_one_eq_mod b.toNat 3

/-- The two fields determine the instruction, since they determine its encoding. -/
theorem Instr.eq_of_ign_of_opc {i j : Instr} (hign : i.ign = j.ign) (hopc : i.opc = j.opc) : i = j := by
  rw [← decode_encode i, encode, hign, hopc, ← encode, decode_encode]

/-- A byte has the match of an instruction's row exactly when it decodes to that instruction, once the instruction carries
the byte's ignored bits. -/
theorem and_mask_eq_match_iff {b rowMatch : OpByte} {i : Instr} (hmatch : rowMatch.toNat = i.opc.toNat)
    (hign : i.ign = ignField b) : b &&& 0x07#8 = rowMatch ↔ decode b = i :=
  calc b &&& 0x07#8 = rowMatch
    _ ↔ opcField b = i.opc := by rw [← BitVec.toNat_inj, and_mask_toNat, hmatch, BitVec.toNat_inj]
    _ ↔ decode b = i :=
      ⟨fun hopc => Instr.eq_of_ign_of_opc (by rw [ign_decode, hign]) (by rw [opc_decode, hopc]),
       fun h => by rw [← h, opc_decode]⟩

/-- Settles O3: the eight rows, each with the number of its match and the byte's ignored bits. -/
theorem everyByteSelectsItsRow : Obligations.EveryByteSelectsItsRow := fun _ =>
  ⟨and_mask_eq_match_iff rfl rfl, and_mask_eq_match_iff rfl rfl, and_mask_eq_match_iff rfl rfl,
   and_mask_eq_match_iff rfl rfl, and_mask_eq_match_iff rfl rfl, and_mask_eq_match_iff rfl rfl,
   and_mask_eq_match_iff rfl rfl, and_mask_eq_match_iff rfl rfl⟩

end Sys2Proof

namespace Sys2Proof.Machine

/-! ## The enable vector (R46) -/

/-- Settles O4: the vector is one-hot at the number of the decoded row, which is `op mod 8`. -/
theorem enableVectorIsOneHot : Obligations.EnableVectorIsOneHot := by
  intro op j
  have selected := enableVector_getElem op j.val j.isLt
  rwa [opc_decode, opcField_toNat] at selected

end Sys2Proof.Machine

/-! PROOFS of the family spec/40_gates.md: the gates act lane by lane, match the truth tables and their closed forms, and
have the sizes and depths of R65. -/

namespace Sys2Proof.Machine

open Sys2Proof

/-! ## The lane rule (R55)

Only the two primitives are looked at bit by bit: the other five gates are compositions of gates that already act lane by
lane. -/

section lanes

variable {w : Nat} (A B : Word w) {i : Nat} (h : i < w)
include h

theorem lane_notGate : lane (notGate A) i = notGate (lane A i) := by
  rw [lane_eq, lane_eq, notGate_eq, notGate_eq, BitVec.getLsbD_not, BitVec.not_ofBool, decide_eq_true h,
    Bool.true_and]

theorem lane_nandGate : lane (nandGate A B) i = nandGate (lane A i) (lane B i) := by
  rw [lane_eq, lane_eq, lane_eq, nandGate_eq, nandGate_eq, BitVec.getLsbD_not, BitVec.getLsbD_and,
    BitVec.ofBool_and_ofBool, BitVec.not_ofBool, decide_eq_true h, Bool.true_and]

theorem lane_andGate : lane (andGate A B) i = andGate (lane A i) (lane B i) := by
  rw [andGate, lane_notGate _ h, lane_nandGate _ _ h, ← andGate]

theorem lane_orGate : lane (orGate A B) i = orGate (lane A i) (lane B i) := by
  rw [orGate, lane_nandGate _ _ h, lane_notGate _ h, lane_notGate _ h, ← orGate]

theorem lane_norGate : lane (norGate A B) i = norGate (lane A i) (lane B i) := by
  rw [norGate, lane_notGate _ h, lane_orGate _ _ h, ← norGate]

theorem lane_xorGate : lane (xorGate A B) i = xorGate (lane A i) (lane B i) := by
  rw [xorGate, lane_orGate _ _ h, lane_andGate _ _ h, lane_andGate _ _ h, lane_notGate _ h, lane_notGate _ h, ← xorGate]

theorem lane_xnorGate : lane (xnorGate A B) i = xnorGate (lane A i) (lane B i) := by
  rw [xnorGate, lane_notGate _ h, lane_xorGate _ _ h, ← xnorGate]

end lanes

/-- Settles O27: the lane rule of each gate. -/
theorem gatesActLaneByLane : Obligations.GatesActLaneByLane := fun _ A B _ h =>
  ⟨lane_notGate A h, lane_nandGate A B h, lane_andGate A B h, lane_orGate A B h, lane_norGate A B h, lane_xorGate A B h,
    lane_xnorGate A B h⟩

/-! ## Truth tables and closed forms (R63) -/

section closedForms

variable {w : Nat} (A B : Word w)

theorem notGate_toNat : (notGate A).toNat = (2 ^ w - 1) - A.toNat := BitVec.toNat_not

theorem nandGate_toNat : (nandGate A B).toNat = (2 ^ w - 1) - (A &&& B).toNat := BitVec.toNat_not

theorem norGate_toNat : (norGate A B).toNat = (2 ^ w - 1) - (A ||| B).toNat := by
  rw [norGate_eq, BitVec.toNat_not]

theorem xnorGate_toNat : (xnorGate A B).toNat = (2 ^ w - 1) - (A ^^^ B).toNat := by
  rw [xnorGate_eq, BitVec.toNat_not]

end closedForms

/-- Settles O28: the finite tables are evaluated, the closed forms hold at every width. -/
theorem gatesMatchTruthTables : Obligations.GatesMatchTruthTables :=
  ⟨by decide, by decide, by decide, by decide, by decide, by decide, by decide, by decide, by decide,
    fun _ A B => ⟨notGate_toNat A, nandGate_toNat A B, andGate_eq A B, orGate_eq A B, norGate_toNat A B, xorGate_eq A B,
      xnorGate_toNat A B⟩⟩

/-! ## Corner cases (R56 to R62)

NOR and XNOR inherit theirs from OR and XOR through the final NOT. -/

section corners

variable {w : Nat} (A B : Word w)

@[simp] theorem notGate_zero : notGate 0#w = BitVec.allOnes w := BitVec.not_zero

@[simp] theorem notGate_allOnes : notGate (BitVec.allOnes w) = 0#w := BitVec.not_allOnes

@[simp] theorem notGate_notGate : notGate (notGate A) = A := BitVec.not_not

@[simp] theorem nandGate_self : nandGate A A = notGate A := by rw [nandGate_eq, BitVec.and_self, notGate_eq]

@[simp] theorem nandGate_zero : nandGate A 0#w = BitVec.allOnes w := by
  rw [nandGate_eq, BitVec.and_zero, BitVec.not_zero]

@[simp] theorem nandGate_allOnes : nandGate A (BitVec.allOnes w) = notGate A := by
  rw [nandGate_eq, BitVec.and_allOnes, notGate_eq]

theorem nandGate_comm : nandGate A B = nandGate B A := by rw [nandGate_eq, BitVec.and_comm, ← nandGate_eq]

@[simp] theorem andGate_zero : andGate A 0#w = 0#w := by rw [andGate, nandGate_zero, notGate_allOnes]

@[simp] theorem andGate_allOnes : andGate A (BitVec.allOnes w) = A := by rw [andGate, nandGate_allOnes, notGate_notGate]

@[simp] theorem andGate_self : andGate A A = A := by rw [andGate, nandGate_self, notGate_notGate]

theorem andGate_comm : andGate A B = andGate B A := by rw [andGate, nandGate_comm, ← andGate]

@[simp] theorem orGate_zero : orGate A 0#w = A := by rw [orGate, notGate_zero, nandGate_allOnes, notGate_notGate]

@[simp] theorem orGate_allOnes : orGate A (BitVec.allOnes w) = BitVec.allOnes w := by
  rw [orGate, notGate_allOnes, nandGate_zero]

@[simp] theorem orGate_self : orGate A A = A := by rw [orGate, nandGate_self, notGate_notGate]

theorem orGate_comm : orGate A B = orGate B A := by rw [orGate, nandGate_comm, ← orGate]

theorem orGate_assoc (C : Word w) : orGate (orGate A B) C = orGate A (orGate B C) := by
  rw [orGate_eq, orGate_eq, BitVec.or_assoc, ← orGate_eq, ← orGate_eq]

@[simp] theorem norGate_self : norGate A A = notGate A := by rw [norGate, orGate_self]

@[simp] theorem norGate_allOnes : norGate A (BitVec.allOnes w) = 0#w := by rw [norGate, orGate_allOnes, notGate_allOnes]

theorem norGate_comm : norGate A B = norGate B A := by rw [norGate, orGate_comm, ← norGate]

@[simp] theorem xorGate_self : xorGate A A = 0#w := by rw [xorGate_eq, BitVec.xor_self]

@[simp] theorem xorGate_zero : xorGate A 0#w = A := by rw [xorGate_eq, BitVec.xor_zero]

@[simp] theorem xorGate_allOnes : xorGate A (BitVec.allOnes w) = notGate A := by
  rw [xorGate_eq, BitVec.xor_allOnes, notGate_eq]

theorem xorGate_comm : xorGate A B = xorGate B A := by rw [xorGate, orGate_comm, ← xorGate]

/-- The two terms that XOR's OR joins are never 1 in the same lane (R61). -/
theorem xorGate_terms_disjoint : andGate (andGate (notGate A) B) (andGate (notGate B) A) = 0#w := by
  rw [andGate_eq, andGate_eq, andGate_eq, notGate_eq, notGate_eq]
  ext i hi
  simp only [BitVec.getElem_and, BitVec.getElem_not, BitVec.getElem_zero]
  cases A[i] <;> simp

@[simp] theorem xnorGate_self : xnorGate A A = BitVec.allOnes w := by rw [xnorGate, xorGate_self, notGate_zero]

@[simp] theorem xnorGate_zero : xnorGate A 0#w = notGate A := by rw [xnorGate, xorGate_zero]

theorem xnorGate_comm : xnorGate A B = xnorGate B A := by rw [xnorGate, xorGate_comm, ← xnorGate]

end corners

/-- Settles O29: the corner cases of each gate, in the order of R56 to R62, and the evaluated examples. -/
theorem gateCornerCases : Obligations.GateCornerCases := by
  refine ⟨fun w A B => ⟨?not, ?nand, ?and, ?or, ?nor, ?xor, ?xnor⟩, ?examples⟩
  case not => exact ⟨notGate_zero, notGate_allOnes, notGate_notGate A⟩
  case nand => exact ⟨nandGate_self A, nandGate_zero A, nandGate_allOnes A, nandGate_comm A B⟩
  case and => exact ⟨andGate_zero A, andGate_allOnes A, andGate_self A, andGate_comm A B⟩
  case or => exact ⟨orGate_zero A, orGate_allOnes A, orGate_self A, orGate_comm A B, orGate_assoc A B⟩
  case nor => exact ⟨norGate_self A, (norGate_self 0).trans notGate_zero, norGate_allOnes A, norGate_comm A B⟩
  case xor =>
    exact ⟨xorGate_self A, xorGate_zero A, xorGate_allOnes A, xorGate_comm A B, xorGate_terms_disjoint A B⟩
  case xnor => exact ⟨xnorGate_self A, xnorGate_zero A, xnorGate_comm A B⟩
  case examples => decide

/-! ## Sizes and depths (R65) -/

theorem andCount_eq : andCount = { nots := 1, nands := 1 } := rfl
theorem orCount_eq : orCount = { nots := 2, nands := 1 } := rfl
theorem norCount_eq : norCount = { nots := 3, nands := 1 } := rfl
theorem xorCount_eq : xorCount = { nots := 6, nands := 3 } := rfl
theorem xnorCount_eq : xnorCount = { nots := 7, nands := 3 } := rfl

/-- `k` copies of a counted netlist, its numbers standing first as in the table of R65. -/
theorem PrimCount.times_mk (k a b : Nat) :
    PrimCount.times k { nots := a, nands := b } = { nots := a * k, nands := b * k } := by
  rw [PrimCount.times, Nat.mul_comm k a, Nat.mul_comm k b]

/-- Settles O56: `w` copies of one lane's primitives; no path of a gate mentions the width. -/
theorem gatePrimitiveCounts : Obligations.GatePrimitiveCounts := by
  refine ⟨fun w => ?counts, fun w => ⟨rfl, rfl, rfl, rfl, rfl, rfl, rfl⟩⟩
  simp only [primCount, notCount, nandCount, andCount_eq, orCount_eq, norCount_eq, xorCount_eq, xnorCount_eq,
    PrimCount.times_mk, Nat.zero_mul, Nat.one_mul, and_self]

end Sys2Proof.Machine

/-! PROOFS of the family spec/41_bit_layout.md: Splitter and Hub undo each other and have their formulas, and the interface
truncates what a Splitter takes in and refuses every other value outside its port's type. -/

namespace Sys2Proof.Machine

open Sys2Proof

/-! ## The two formulas (R66, R68) -/

theorem lane_toNat {n : Nat} (w : Word n) (i : Nat) : (lane w i).toNat = (w.toNat >>> i) % 2 := by
  rw [lane, BitVec.toNat_setWidth, BitVec.toNat_ushiftRight, pow_one]

/-- The Hub's sum in closed form, from any starting position. -/
theorem hubSum_eq_sum (k : Nat) (l : List Bit) :
    hubSum k l = ∑ i ∈ Finset.range l.length, (l.getD i 0).toNat * 2 ^ (k + i) := by
  induction l generalizing k with
  | nil => rfl
  | cons b bs ih =>
    rw [hubSum_cons, ih, List.length_cons, Finset.sum_range_succ', add_comm]
    simp only [List.getD_cons_succ, List.getD_cons_zero, Nat.add_zero, Nat.add_assoc, Nat.add_comm 1]

/-- The sum of `n` Bits at their positions fits in `n` lanes, so the Hub cuts nothing off. -/
theorem hubSum_lt_two_pow_length (l : List Bit) : hubSum 0 l < 2 ^ l.length := by
  refine Nat.lt_pow_two_of_testBit _ fun j hj => ?_
  rw [testBit_hubSum, List.getD_eq_default _ _ hj]
  rfl

theorem hub_toNat_eq_sum {n : Nat} (v : BitVector n) : (hub v).toNat = ∑ i : Fin n, (v[i]).toNat * 2 ^ i.val := by
  have fits : hubSum 0 v.toList < 2 ^ n := by simpa using hubSum_lt_two_pow_length v.toList
  rw [hub, BitVec.toNat_ofNat, Nat.mod_eq_of_lt fits, hubSum_eq_sum, Vector.length_toList, Finset.sum_range]
  simp

@[simp] theorem splitter_zero (n : Nat) : splitter (0 : Word n) = Vector.replicate n 0 := by
  ext1 i hi
  simp [lane_eq]

@[simp] theorem splitter_allOnes (n : Nat) : splitter (BitVec.allOnes n) = Vector.replicate n 1 := by
  ext1 i hi
  simp [lane_eq, hi]

/-- Settles O31: the formula of a lane, the closed form of the Hub's sum, and the corners, where the Hub's are the
Splitter's undone. -/
theorem splitterAndHubValues : Obligations.SplitterAndHubValues := by
  refine ⟨fun n w i => ?element, fun n v => hub_toNat_eq_sum v, fun n => ⟨splitter_zero n, splitter_allOnes n, ?zeros, ?ones⟩,
    by decide, by decide, by decide⟩
  case element => rw [Fin.getElem_fin, splitter_getElem, lane_toNat]
  case zeros => rw [← splitter_zero, hub_splitter]
  case ones => rw [← splitter_allOnes, hub_splitter]

/-! ## The calls of Splitter and Hub (R67, R69) -/

/-- Settles O30: `hub_splitter` and `splitter_hub`, the first also between the two calls. -/
theorem splitterHubRoundTrip : Obligations.SplitterHubRoundTrip := by
  refine ⟨fun _ => hub_splitter, fun _ => splitter_hub, fun n w hn => ⟨_, run_splitter hn rfl, ?_⟩⟩
  rw [run_hub hn (v := splitter (BitVec.ofNat n w)) rfl, hub_splitter, ofWord, BitVec.toNat_ofNat]

theorem run_of_not_wf {c : Component} (m : Fields) (h : c.wf = false) : run c m = .refused (.zeroWidth c) := by
  simp [run, h]

theorem run_splitter_mod (n w : Nat) :
    run (.splitter n) [(.W, .int w)] = run (.splitter n) [(.W, .int (w % 2 ^ n : Nat))] := by
  rcases Nat.eq_zero_or_pos n with rfl | hn
  · rw [run_of_not_wf _ rfl, run_of_not_wf _ rfl]
  · have low_bits : BitVec.ofNat n (w % 2 ^ n) = BitVec.ofNat n w := BitVec.eq_of_toNat_eq (by simp)
    rw [run_splitter hn rfl, run_splitter hn rfl, low_bits]

/-- Settles O51: both calls split the same Word. -/
theorem splitterCallTruncates : Obligations.SplitterCallTruncates :=
  ⟨run_splitter_mod, run_splitter_mod 8 457, run_splitter (by decide) (w := 457) rfl⟩

/-! ## Which values the interface reads (R70, R135, D22) -/

section readable

variable (n : Nat) (m : Fields) (f : PortName)

theorem wordExact_isSome : (wordExact n m f).isSome = (field m f).any (FieldValue.isWord n) := by
  rw [wordExact]
  rcases field m f with _ | v | l
  · rfl
  · cases h : (FieldValue.int v).isWord n <;> simp [h]
  · rfl

theorem wordTruncated_isSome : (wordTruncated n m f).isSome = (field m f).any FieldValue.isNonNegative := by
  rw [wordTruncated]
  rcases field m f with _ | v | l
  · rfl
  · cases h : (FieldValue.int v).isNonNegative <;> simp [h]
  · rfl

theorem bitExact_isSome : (bitExact m f).isSome = (field m f).any FieldValue.isBit := by
  rw [bitExact]
  rcases field m f with _ | v | l
  · rfl
  · cases h : (FieldValue.int v).isBit <;> simp [h]
  · rfl

theorem bitsExact_isSome : (bitsExact n m f).isSome = (field m f).any (FieldValue.isBits n) := by
  rw [bitsExact]
  rcases field m f with _ | v | l
  · rfl
  · rfl
  · cases h : (FieldValue.bits l).isBits n <;> simp [h]

end readable

theorem FieldValue.isNonNegative_of_isWord {n : Nat} {v : FieldValue} (h : v.isWord n = true) : v.isNonNegative = true := by
  cases v with
  | int v => exact decide_eq_true (of_decide_eq_true h).1
  | bits l => cases h

section accepted

variable {c : Component} {f : PortName}

/-- On a field that a Splitter takes in, every non-negative integer has a meaning. -/
theorem fieldAccepted_of_fed (n : Nat) (v : FieldValue) (h : (splitterFed c).contains f = true) :
    fieldAccepted c f (.word n) v = v.isNonNegative := by
  rw [fieldAccepted, h, Bool.true_and]
  exact Bool.or_eq_right_iff_imp.mpr FieldValue.isNonNegative_of_isWord

/-- On every other field, exactly the values of the port's type do. -/
theorem fieldAccepted_of_not_fed (t : PortType) (v : FieldValue) (h : (splitterFed c).contains f = false) :
    fieldAccepted c f t v = v.hasType t := by
  rw [fieldAccepted, h, Bool.false_and, Bool.or_false]

end accepted

/-! A component that reads one, two or three fields answers exactly where all of them can be read. -/

theorem isSome_read₁ {α β : Type} (x : Option α) (g : α → β) : (x.bind fun a => some (g a)).isSome = x.isSome := by
  cases x <;> rfl

theorem isSome_read₂ {α β γ : Type} (x : Option α) (y : Option β) (g : α → β → γ) :
    (x.bind fun a => y.bind fun b => some (g a b)).isSome = (x.isSome && y.isSome) := by
  cases x <;> cases y <;> rfl

theorem isSome_read₃ {α β γ δ : Type} (x : Option α) (y : Option β) (z : Option γ) (g : α → β → γ → δ) :
    (x.bind fun a => y.bind fun b => z.bind fun c => some (g a b c)).isSome = (x.isSome && (y.isSome && z.isSome)) := by
  cases x <;> cases y <;> cases z <;> rfl

/-- The typed component answers exactly where every input port holds a value with a meaning. -/
theorem evaluate_isSome (c : Component) (m : Fields) :
    (evaluate c m).isSome = (inputPorts c).all fun p => (field m p.1).any fun v => fieldAccepted c p.1 p.2 v := by
  cases c <;> simp only [evaluate, runGate, inputPorts, Option.bind_eq_bind, isSome_read₁, isSome_read₂, isSome_read₃,
    wordExact_isSome, wordTruncated_isSome, bitExact_isSome, bitsExact_isSome, List.all_cons, List.all_nil, Bool.and_true]
  case not | nand | and | or | nor | xor | xnor | hub | decoder | switch | halfAdder | fullAdder =>
    simp (disch := simp [splitterFed]) only [fieldAccepted_of_not_fed, FieldValue.hasType]
  case splitter | negator | subtractor | multiplier => simp (disch := simp [splitterFed]) only [fieldAccepted_of_fed]
  case adder | alu =>
    simp (disch := simp [splitterFed]) only [fieldAccepted_of_fed, fieldAccepted_of_not_fed, FieldValue.hasType]

/-- With every required field there, the typed component refuses exactly where one of them holds a value without a meaning. -/
theorem evaluate_eq_none_iff {c : Component} {m : Fields} (hpresent : ∀ p ∈ inputPorts c, field m p.1 ≠ none) :
    evaluate c m = none ↔
      ∃ p ∈ inputPorts c, ∃ v : FieldValue, field m p.1 = some v ∧ fieldAccepted c p.1 p.2 v = false := by
  rw [← Option.isNone_iff_eq_none, ← Option.isSome_eq_false_iff, evaluate_isSome, List.all_eq_false]
  refine exists_congr fun p => and_congr_right fun hp => ?_
  obtain ⟨v, hv⟩ := Option.ne_none_iff_exists'.mp (hpresent p hp)
  simp [hv]

/-! ## Which calls are refused -/

theorem run_refused_of_evaluate {c : Component} {m : Fields} (hwf : c.wf = true) (habsent : absentFields c m = [])
    (hcarry : rangeChecksCarry c = true → carryInRange m = true) (h : evaluate c m = none) :
    run c m = .refused (.outOfType c) := by
  rcases run_cases c m with ⟨hw, _⟩ | ⟨_, f, fs, ha, _⟩ |
      ⟨_, _, ⟨hchecks, hrange, _⟩ | ⟨_, ⟨outs, ho, _⟩ | ⟨_, e⟩⟩⟩
  · simp [hwf] at hw
  · simp [habsent] at ha
  · simp [hcarry hchecks] at hrange
  · simp [h] at ho
  · exact e

/-- A refused call is of a component of width 0, or passed both checks and met a value that cannot be read. -/
theorem run_refused {c : Component} {m : Fields} {r : Refusal} (h : run c m = .refused r) :
    (c.wf = false ∧ r = .zeroWidth c) ∨
    (c.wf = true ∧ r = .outOfType c ∧ absentFields c m = [] ∧ evaluate c m = none) := by
  rcases run_cases c m with ⟨hw, e⟩ | ⟨_, f, fs, _, e⟩ | ⟨hw, ha, ⟨_, _, e⟩ | ⟨_, ⟨o, _, e⟩ | ⟨ho, e⟩⟩⟩ <;>
    rw [e] at h <;> cases h
  · exact .inl ⟨hw, rfl⟩
  · exact .inr ⟨hw, rfl, ha, ho⟩

theorem absentFields_eq_nil_iff {c : Component} {m : Fields} :
    absentFields c m = [] ↔ ∀ p ∈ inputPorts c, field m p.1 ≠ none := by
  refine ⟨fun h p hp hnone => ?_, fun h => absentFields_eq_nil fun p hp => Option.isSome_iff_ne_none.mpr (h p hp)⟩
  have habsent : p.1 ∈ absentFields c m := mem_absentFields.mpr ⟨List.mem_map_of_mem hp, hnone⟩
  simp [h] at habsent

theorem carryInRange_iff (m : Fields) :
    carryInRange m = true ↔ field m .C = some (.int 0) ∨ field m .C = some (.int 1) := by
  rw [carryInRange]
  rcases field m .C with _ | v | l <;> simp [FieldValue.isBit]

/-- One value without a meaning is enough, once the two checks are passed. -/
theorem run_refused_of_not_accepted {c : Component} {m : Fields} (hwf : c.wf = true)
    (hpresent : ∀ p ∈ inputPorts c, field m p.1 ≠ none)
    (hcarry : rangeChecksCarry c = true → field m .C = some (.int 0) ∨ field m .C = some (.int 1))
    (h : ∃ p ∈ inputPorts c, ∃ v : FieldValue, field m p.1 = some v ∧ fieldAccepted c p.1 p.2 v = false) :
    run c m = .refused (.outOfType c) :=
  run_refused_of_evaluate hwf (absentFields_eq_nil_iff.mpr hpresent)
    (fun hchecks => (carryInRange_iff m).mpr (hcarry hchecks)) ((evaluate_eq_none_iff hpresent).mpr h)

/-- An operand pair of which one is no Word of `n` lanes. -/
theorem isWord_eq_false_of_out_of_range {n : Nat} {a b : Int} (h : a < 0 ∨ 2 ^ n ≤ a ∨ b < 0 ∨ 2 ^ n ≤ b) :
    (FieldValue.int a).isWord n = false ∨ (FieldValue.int b).isWord n = false := by
  simp only [FieldValue.isWord, decide_eq_false_iff_not, not_and_or, not_le, not_lt]
  rwa [or_assoc]

section instances

variable {c : Component} {m : Fields} (hwf : c.wf = true) (hunchecked : rangeChecksCarry c = false)
  (hpresent : ∀ p ∈ inputPorts c, field m p.1 ≠ none)
include hwf hunchecked hpresent

/-- The refusal of a component that checks no carry-in, for a named port. -/
theorem run_refused_of_port {f : PortName} {t : PortType} {v : FieldValue} (hport : (f, t) ∈ inputPorts c)
    (hv : field m f = some v) (h : fieldAccepted c f t v = false) : run c m = .refused (.outOfType c) :=
  run_refused_of_not_accepted hwf hpresent (by simp [hunchecked]) ⟨_, hport, v, hv, h⟩

/-- The same for operands `A` and `B` that no Splitter takes in, one of them no Word of `n` lanes. -/
theorem run_refused_of_operands {n : Nat} {a b : FieldValue} (hportA : (.A, .word n) ∈ inputPorts c)
    (hportB : (.B, .word n) ∈ inputPorts c) (hfedA : (splitterFed c).contains .A = false)
    (hfedB : (splitterFed c).contains .B = false) (ha : field m .A = some a) (hb : field m .B = some b)
    (h : a.isWord n = false ∨ b.isWord n = false) : run c m = .refused (.outOfType c) := by
  rcases h with h | h
  · exact run_refused_of_port hwf hunchecked hpresent hportA ha ((fieldAccepted_of_not_fed _ a hfedA).trans h)
  · exact run_refused_of_port hwf hunchecked hpresent hportB hb ((fieldAccepted_of_not_fed _ b hfedB).trans h)

end instances

/-- Settles O53: the general clauses are `run_refused_of_not_accepted` and its converse; each instance names the port whose
value has no meaning. -/
theorem outOfTypeValuesRefused : Obligations.OutOfTypeValuesRefused := by
  refine ⟨fun c m => run_refused_of_not_accepted, fun c m => run_of_not_wf m, fun c m r h => ?converse,
    fun n l hn hl => ?sequences, fun n a b hn hab => ?operands, fun n a hn ha => ?negative⟩
  case converse =>
    obtain hw | ⟨hwf, hr, habsent, heval⟩ := run_refused h
    · exact .inl hw
    · exact .inr ⟨hwf, hr, (evaluate_eq_none_iff (absentFields_eq_nil_iff.mp habsent)).mp heval⟩
  case sequences =>
    have refused : (FieldValue.bits l).isBits n = false := by simpa [FieldValue.isBits] using fun _ => hl
    exact ⟨run_refused_of_port (decide_eq_true hn) rfl (by simp [inputPorts, field]) (.head _) rfl
        ((fieldAccepted_of_not_fed _ _ rfl).trans refused),
      run_refused_of_port (decide_eq_true hn) rfl (by simp [inputPorts, field]) (.head _) rfl
        ((fieldAccepted_of_not_fed _ _ rfl).trans refused)⟩
  case operands =>
    have refused := isWord_eq_false_of_out_of_range hab
    exact ⟨run_refused_of_operands (decide_eq_true hn) rfl (by simp [inputPorts, field]) (.head _) (.tail _ (.head _))
        rfl rfl rfl rfl refused,
      fun o => run_refused_of_operands (decide_eq_true hn) rfl (by simp [inputPorts, field]) (.head _)
        (.tail _ (.head _)) rfl rfl rfl rfl refused⟩
  case negative =>
    have refused : (FieldValue.int a).isNonNegative = false := decide_eq_false (by omega)
    exact ⟨run_refused_of_port (decide_eq_true hn) rfl (by simp [inputPorts, field]) (.head _) rfl
        ((fieldAccepted_of_fed _ _ rfl).trans refused),
      run_refused_of_port (decide_eq_true hn) rfl (by simp [inputPorts, field]) (.head _) rfl
        ((fieldAccepted_of_fed _ _ rfl).trans refused)⟩

end Sys2Proof.Machine

/-! PROOFS of the family spec/42_selector.md: the Decoder is one-hot and injective, the netlists chosen for Decoder and
Switch compute their functions, and the OR of gated Words is the selected one. -/

namespace Sys2Proof.Machine

open Sys2Proof

/-! ## The Decoder's one-hot output (R73) -/

theorem hub_injective (w : Nat) : Function.Injective (hub : BitVector w → Word w) :=
  Function.LeftInverse.injective splitter_hub

theorem decoder_getElem_eq_one_iff {w : Nat} (idx : BitVector w) {j : Nat} (h : j < 2 ^ w) :
    (decoder idx)[j] = 1 ↔ j = (hub idx).toNat := by
  rw [decoder_getElem]
  split <;> simp [*]

/-- The index is where the output's 1 stands, and the Hub determines its Bits. -/
theorem decoder_injective (w : Nat) : Function.Injective (decoder : BitVector w → BitVector (2 ^ w)) := by
  intro idx idx' heq
  have set_in_both : (decoder idx')[(hub idx).toNat] = 1 := by
    rw [← heq, decoder_getElem_eq_one_iff idx (hub idx).isLt]
  exact hub_injective w (BitVec.eq_of_toNat_eq ((decoder_getElem_eq_one_iff idx' (hub idx).isLt).mp set_in_both))

/-- The one term at the index is 1, the others are 0. -/
theorem sum_decoder {w : Nat} (idx : BitVector w) : ∑ j : Fin (2 ^ w), ((decoder idx)[j]).toNat = 1 := by
  rw [Finset.sum_eq_single (⟨(hub idx).toNat, (hub idx).isLt⟩ : Fin (2 ^ w))]
  · simp
  · intro j _ hj
    have unset : j.val ≠ (hub idx).toNat := fun h => hj (Fin.ext h)
    simp [unset]
  · simp

/-- Of two different elements one is not at the index, and is 0. -/
theorem decoder_and_eq_zero {w : Nat} (idx : BitVector w) {i j : Fin (2 ^ w)} (hij : i ≠ j) :
    (decoder idx)[i] &&& (decoder idx)[j] = 0 := by
  rw [Fin.getElem_fin, Fin.getElem_fin, decoder_getElem, decoder_getElem]
  by_cases hi : i.val = (hub idx).toNat
  · have hj : j.val ≠ (hub idx).toNat := fun hj => hij (Fin.ext (hi.trans hj.symm))
    rw [if_neg hj]; exact BitVec.and_zero
  · rw [if_neg hi]; exact BitVec.zero_and

/-- Settles O32: the 1 stands at the Hub's value, which gives the sum, the disjointness and the injectivity. -/
theorem decoderIsOneHot : Obligations.DecoderIsOneHot :=
  ⟨fun w idx => ⟨(hub idx).isLt, fun j => decoder_getElem idx j.val j.isLt, sum_decoder idx,
      fun _ _ => decoder_and_eq_zero idx, fun _ heq => decoder_injective w heq⟩,
    by decide⟩

/-! ## The minterm netlist (R74) -/

/-- Bits are equal when they are 1 together. -/
theorem bit_ext {a b : Bit} (h : a = 1 ↔ b = 1) : a = b := by
  revert a b; decide

/-- R58 on Bits. -/
theorem andGate_bit_eq_one_iff (a b : Bit) : andGate a b = 1 ↔ a = 1 ∧ b = 1 := by
  revert a b; decide

/-- An index element is the bit of the index's value. -/
theorem elem_eq_ofBool_testBit_hub {w : Nat} (idx : BitVector w) {i : Nat} (h : i < w) :
    elem idx i = BitVec.ofBool ((hub idx).toNat.testBit i) := by
  rw [elem_eq_getElem idx i h, ← lane_hub idx h, lane_eq, BitVec.testBit_toNat]

/-- A literal is 1 exactly when the index and the minterm's constant agree in its bit. -/
theorem mintermLiteral_eq_one_iff {w : Nat} (idx : BitVector w) (j : Nat) {i : Nat} (h : i < w) :
    mintermLiteral idx j i = 1 ↔ j.testBit i = (hub idx).toNat.testBit i := by
  rw [mintermLiteral, elem_eq_ofBool_testBit_hub idx h]
  cases j.testBit i <;> cases (hub idx).toNat.testBit i <;> decide

/-- The AND of the literals up to `i` is 1 exactly when index and constant agree in bits 0 to `i`. -/
theorem mintermAnd_eq_one_iff {w : Nat} (idx : BitVector w) (j : Nat) {i : Nat} (h : i < w) :
    mintermAnd idx j i = 1 ↔ ∀ k ≤ i, j.testBit k = (hub idx).toNat.testBit k := by
  induction i with
  | zero => rw [mintermAnd_zero, mintermLiteral_eq_one_iff idx j h]; simp only [Nat.le_zero, forall_eq]
  | succ i ih =>
    rw [mintermAnd_succ, andGate_bit_eq_one_iff, ih (by omega), mintermLiteral_eq_one_iff idx j h]
    simp only [Nat.le_succ_iff, or_imp, forall_and, forall_eq]

/-- The full minterm of `j` is 1 exactly at the index `j`: two numbers below `2^w` that agree in `w` bits are equal. -/
theorem mintermAnd_last_eq_one_iff {w : Nat} (idx : BitVector w) (hw : 1 ≤ w) {j : Nat} (hj : j < 2 ^ w) :
    mintermAnd idx j (w - 1) = 1 ↔ j = (hub idx).toNat := by
  rw [mintermAnd_eq_one_iff idx j (by omega)]
  refine ⟨fun agree => Nat.eq_of_testBit_eq fun k => ?_, fun h k _ => by rw [h]⟩
  rcases Nat.lt_or_ge k w with hk | hk
  · exact agree k (by omega)
  · have below : 2 ^ w ≤ 2 ^ k := Nat.pow_le_pow_right (by decide) hk
    rw [Nat.testBit_lt_two_pow (hj.trans_le below), Nat.testBit_lt_two_pow ((hub idx).isLt.trans_le below)]

/-- Settles O33: minterm `j` and Decoder output `j` are 1 for the same index. -/
theorem decoderNetlistComputesDecoder : Obligations.DecoderNetlistComputesDecoder := by
  intro w idx hw
  ext1 j hj
  refine bit_ext ?_
  rw [decoderNetlist, Vector.getElem_ofFn, mintermAnd_last_eq_one_iff idx hw hj, decoder_getElem_eq_one_iff idx hj]

/-! ## One AND per lane (R75, R76) -/

@[simp] theorem switchNetlist_one {n : Nat} (A : Word n) : switchNetlist A 1 = A := by
  have and_one (b : Bit) : andGate b 1 = b := andGate_allOnes b
  simp only [switchNetlist, and_one]
  exact hub_splitter A

@[simp] theorem switchNetlist_zero {n : Nat} (A : Word n) : switchNetlist A 0 = 0 := by
  have zero_lanes : (Vector.ofFn fun i : Fin n => andGate (lane A i.val) 0) = splitter (0 : Word n) := by
    ext1 i hi
    rw [Vector.getElem_ofFn, splitter_zero, Vector.getElem_replicate]
    exact andGate_zero _
  rw [switchNetlist, zero_lanes, hub_splitter]

theorem switchNetlist_eq_switch {n : Nat} (A : Word n) (S : Bit) : switchNetlist A S = switch A S := by
  rcases bit_cases S with rfl | rfl
  · rw [switchNetlist_zero, switch_zero]
  · rw [switchNetlist_one, switch_one]

/-- `A * S` in R76. -/
theorem switch_toNat {n : Nat} (A : Word n) (S : Bit) : (switch A S).toNat = A.toNat * S.toNat := by
  rcases bit_cases S with rfl | rfl
  · rw [switch_zero]; simp
  · rw [switch_one]; simp

/-- The lanes are the netlist's AND gates. -/
theorem lane_switch {n : Nat} (A : Word n) (S : Bit) {i : Nat} (h : i < n) :
    lane (switch A S) i = andGate (lane A i) S := by
  rw [← switchNetlist_eq_switch, switchNetlist, lane_hub _ h, Vector.getElem_ofFn]

/-- Settles O34: the Switch's two cases, its netlist, its product and its lanes. -/
theorem switchNetlistComputesSwitch : Obligations.SwitchNetlistComputesSwitch :=
  ⟨fun _ A => ⟨switch_one A, switch_zero A⟩,
    fun _ A S => ⟨switchNetlist_eq_switch A S, switch_toNat A S, fun _ => lane_switch A S⟩,
    switch_one _, switch_zero _⟩

/-! ## Selection by OR (R77) -/

@[simp] theorem zero_orGate {n : Nat} (A : Word n) : orGate 0 A = A := by rw [orGate_comm]; exact orGate_zero A

theorem foldr_orGate_of_all_zero {n : Nat} {l : List (Word n)} (h : ∀ v ∈ l, v = 0) : l.foldr orGate 0 = 0 := by
  induction l with
  | nil => rfl
  | cons v l ih =>
    obtain ⟨hv, hl⟩ := List.forall_mem_cons.mp h
    rw [List.foldr_cons, ih hl, hv, zero_orGate]

/-- The OR of a family of Words that are all 0 but one is that one. -/
theorem foldr_orGate_ofFn {n m : Nat} (g : Fin m → Word n) (k : Fin m) (hzero : ∀ j, j ≠ k → g j = 0) :
    (List.ofFn g).foldr orGate 0 = g k := by
  induction m with
  | zero => exact k.elim0
  | succ m ih =>
    rw [List.ofFn_succ, List.foldr_cons]
    cases k using Fin.cases with
    | zero =>
      have rest_zero : ∀ v ∈ List.ofFn fun j : Fin m => g j.succ, v = 0 :=
        List.forall_mem_ofFn_iff.mpr fun j => hzero _ j.succ_ne_zero
      rw [foldr_orGate_of_all_zero rest_zero]
      exact orGate_zero _
    | succ k =>
      rw [hzero 0 k.succ_ne_zero.symm, zero_orGate]
      exact ih (fun j => g j.succ) k fun j hj => hzero _ ((Fin.succ_injective m).ne hj)

/-- Settles O35: every term but the selected one is the Word 0. -/
theorem selectByOr : Obligations.SelectByOr := by
  intro n m f e k hk hrest
  rw [foldr_orGate_ofFn _ k fun j hj => by rw [hrest j hj, switch_zero], hk, switch_one]

end Sys2Proof.Machine

/-! PROOFS of the family spec/43_adder.md: the one-bit adders count the ones among their inputs, and the ripple of
FullAdders adds, position by position, at every width. -/

namespace Sys2Proof.Machine

open Sys2Proof

/-! ## The HalfAdder (R78) -/

theorem halfAdder_value (A B : Bit) :
    2 * (halfAdder A B).CARRY.toNat + (halfAdder A B).SUM.toNat = A.toNat + B.toNat := by
  revert A B; decide

@[simp] theorem halfAdder_zero (A : Bit) : halfAdder A 0 = { SUM := A, CARRY := 0 } :=
  congrArg₂ SumCarry.mk (xorGate_zero A) (andGate_zero A)

/-- A carry needs both inputs, and then nothing is left for the sum. -/
theorem halfAdder_SUM_of_CARRY {A B : Bit} (h : (halfAdder A B).CARRY = 1) : (halfAdder A B).SUM = 0 := by
  revert A B; decide

/-! ## The FullAdder (R79 to R81) -/

theorem fullAdder_SUM (A B C : Bit) : (fullAdder A B C).SUM = (halfAdder (halfAdder A B).SUM C).SUM := rfl

theorem fullAdder_CARRY (A B C : Bit) :
    (fullAdder A B C).CARRY = orGate (halfAdder A B).CARRY (halfAdder (halfAdder A B).SUM C).CARRY := rfl

/-- R81 (a): where the first HalfAdder carries, its sum is 0, and the second has nothing to carry. -/
theorem halfCarries_exclusive (A B C : Bit) :
    ¬((halfAdder A B).CARRY = 1 ∧ (halfAdder (halfAdder A B).SUM C).CARRY = 1) := by
  rintro ⟨first, second⟩
  rw [halfAdder_SUM_of_CARRY first] at second
  revert C; decide

/-- The OR of Bits that exclude each other is their sum. -/
theorem orGate_toNat_of_exclusive {a b : Bit} (h : ¬(a = 1 ∧ b = 1)) : (orGate a b).toNat = a.toNat + b.toNat := by
  revert a b; decide

/-- R80: the values of the two HalfAdders, chained. -/
theorem fullAdder_value (A B C : Bit) :
    2 * (fullAdder A B C).CARRY.toNat + (fullAdder A B C).SUM.toNat = A.toNat + B.toNat + C.toNat := by
  have first := halfAdder_value A B
  have second := halfAdder_value (halfAdder A B).SUM C
  rw [fullAdder_CARRY, orGate_toNat_of_exclusive (halfCarries_exclusive A B C), fullAdder_SUM]
  omega

@[simp] theorem fullAdder_zero (A B : Bit) : fullAdder A B 0 = halfAdder A B := by
  have merged : orGate (halfAdder A B).CARRY 0 = (halfAdder A B).CARRY := orGate_zero _
  rw [fullAdder, halfAdder_zero, merged]

theorem fullAdder_SUM_eq_xor (A B C : Bit) : (fullAdder A B C).SUM = A ^^^ B ^^^ C := by
  rw [fullAdder_SUM, halfAdder, halfAdder, xorGate_eq, xorGate_eq]

theorem fullAdder_CARRY_eq (A B C : Bit) : (fullAdder A B C).CARRY = (A &&& B) ||| ((A ^^^ B) &&& C) := by
  rw [fullAdder_CARRY, halfAdder, halfAdder, orGate_eq, andGate_eq, andGate_eq, xorGate_eq]

/-- Two outputs of one lane are equal when their values are. -/
theorem SumCarry.eq_of_value_eq {r q : SumCarry 1}
    (h : 2 * r.CARRY.toNat + r.SUM.toNat = 2 * q.CARRY.toNat + q.SUM.toNat) : r = q := by
  obtain ⟨s, c⟩ := r
  obtain ⟨s', c'⟩ := q
  have hs : s.toNat < 2 := s.isLt
  have hs' : s'.toNat < 2 := s'.isLt
  dsimp only at h
  rw [BitVec.eq_of_toNat_eq (show s.toNat = s'.toNat by omega),
    BitVec.eq_of_toNat_eq (show c.toNat = c'.toNat by omega)]

/-- R81 (b): the FullAdder depends only on how many of its inputs are 1. -/
theorem fullAdder_eq_of_sum_eq {A B C A' B' C' : Bit}
    (h : A.toNat + B.toNat + C.toNat = A'.toNat + B'.toNat + C'.toNat) : fullAdder A B C = fullAdder A' B' C' :=
  SumCarry.eq_of_value_eq (by rw [fullAdder_value, fullAdder_value, h])

/-- Settles O36: the values, the closed forms, and the corner cases of both one-bit adders. -/
theorem oneBitAddersAdd : Obligations.OneBitAddersAdd := by
  refine ⟨fun A B => ⟨halfAdder_value A B, halfAdder_zero A, fun ⟨hsum, hcarry⟩ => ?_⟩, fun A B C =>
    ⟨fullAdder_value A B C, fullAdder_SUM_eq_xor A B C, fullAdder_CARRY_eq A B C, fullAdder_zero A B⟩⟩
  rw [halfAdder_SUM_of_CARRY hcarry] at hsum
  cases hsum

/-- Settles O37: the half carries exclude each other, and every permutation has the same number of ones. -/
theorem fullAdderIsSymmetric : Obligations.FullAdderIsSymmetric := fun A B C =>
  ⟨halfCarries_exclusive A B C, fullAdder_eq_of_sum_eq (by omega), fullAdder_eq_of_sum_eq (by omega),
    fullAdder_eq_of_sum_eq (by omega), fullAdder_eq_of_sum_eq (by omega), fullAdder_eq_of_sum_eq (by omega)⟩

/-! ## The ripple-carry Adder (R83, R84) -/

/-- What a Word holds in its lanes up to `i` is what it holds below, and lane `i` at its weight. -/
theorem toNat_mod_two_pow_succ {n : Nat} (w : Word n) (i : Nat) :
    w.toNat % 2 ^ (i + 1) = w.toNat % 2 ^ i + 2 ^ i * (lane w i).toNat := by
  rw [lane_toNat, Nat.shiftRight_eq_div_pow, Nat.mod_pow_succ]

/-- The FullAdder that drives lane `i` of the sum. -/
theorem lane_adder_SUM {n : Nat} (A B : Word n) (C : Bit) {i : Nat} (h : i < n) :
    lane (adder A B C).SUM i = (fullAdder (lane A i) (lane B i) (carryAt (splitter A) (splitter B) C i)).SUM := by
  rw [adder_SUM, lane_hub _ h, Vector.getElem_ofFn, elem_splitter A i h, elem_splitter B i h]

/-- R84 of the lanes below position `i`: each FullAdder moves the equation up by one position. -/
theorem adder_value_below {n : Nat} (A B : Word n) (C : Bit) {i : Nat} (h : i ≤ n) :
    (carryAt (splitter A) (splitter B) C i).toNat * 2 ^ i + (adder A B C).SUM.toNat % 2 ^ i =
      A.toNat % 2 ^ i + B.toNat % 2 ^ i + C.toNat := by
  induction i with
  | zero => simp [Nat.mod_one]
  | succ i ih =>
    have before := ih (by omega)
    have position := fullAdder_value (lane A i) (lane B i) (carryAt (splitter A) (splitter B) C i)
    rw [carryAt_succ, elem_splitter A i h, elem_splitter B i h, toNat_mod_two_pow_succ, toNat_mod_two_pow_succ,
      toNat_mod_two_pow_succ, lane_adder_SUM A B C h, pow_succ]
    linear_combination before + 2 ^ i * position

/-- The equation of all lanes. -/
theorem adder_value {n : Nat} (A B : Word n) (C : Bit) :
    (adder A B C).CARRY.toNat * 2 ^ n + (adder A B C).SUM.toNat = A.toNat + B.toNat + C.toNat := by
  have whole := adder_value_below A B C le_rfl
  rwa [← adder_CARRY, BitVec.toNat_mod_cancel, BitVec.toNat_mod_cancel, BitVec.toNat_mod_cancel] at whole

theorem adder_SUM_toNat {n : Nat} (A B : Word n) (C : Bit) :
    (adder A B C).SUM.toNat = (A.toNat + B.toNat + C.toNat) % 2 ^ n := by
  rw [← adder_value, Nat.mul_add_mod', BitVec.toNat_mod_cancel]

theorem bit_toNat_zero : (0 : Bit).toNat = 0 := rfl

theorem bit_toNat_one : (1 : Bit).toNat = 1 := rfl

/-- R85: the sum is below `2^n`, so the carry-out says whether the total reaches it. -/
theorem adder_CARRY_eq_ite {n : Nat} (A B : Word n) (C : Bit) :
    (adder A B C).CARRY = if 2 ^ n ≤ A.toNat + B.toNat + C.toNat then 1 else 0 := by
  have value := adder_value A B C
  have sum_lt := (adder A B C).SUM.isLt
  rcases bit_cases (adder A B C).CARRY with carry | carry
  · rw [carry, bit_toNat_zero, Nat.zero_mul] at value
    rw [carry, if_neg (by omega)]
  · rw [carry, bit_toNat_one, Nat.one_mul] at value
    rw [carry, if_pos (by omega)]

/-- Settles O38: `adder_value_below`, by induction on the position, and what it says at the whole width. -/
theorem rippleCarryAdderAdds : Obligations.RippleCarryAdderAdds := fun _ A B C =>
  ⟨adder_SUM_toNat A B C, adder_CARRY_eq_ite A B C, adder_value A B C, fun _ => adder_value_below A B C⟩

/-! ## The call of the Adder (R88) -/

theorem ofWord_ite_one_zero (p : Prop) [Decidable p] :
    ofWord (if p then 1 else 0 : Bit) = .int (if p then 1 else 0) := by
  split <;> rfl

/-- Settles O50: the call adds the two Words that its operands reduce to. -/
theorem adderCallTruncatesOperands : Obligations.AdderCallTruncatesOperands := by
  intro n a b c hn hc
  have carryIn : (BitVec.ofNat 1 c).toNat = c := by rw [BitVec.toNat_ofNat]; omega
  rw [run_adder hn (c := BitVec.ofNat 1 c) rfl rfl (by rw [ofWord, carryIn]; rfl), ofSumCarry, adder_CARRY_eq_ite,
    ofWord_ite_one_zero, ofWord, adder_SUM_toNat, BitVec.toNat_ofNat, BitVec.toNat_ofNat, carryIn]

end Sys2Proof.Machine

/-! PROOFS of the family spec/44_derived_arith.md: the Negator, the Subtractor and the Multiplier compute negation,
difference and product modulo `2^n`, at every width, and each row of the Multiplier adds one term of the product. -/

namespace Sys2Proof.Machine

open Sys2Proof

/-! ## The Negator (R91, R92) -/

theorem negator_toNat {n : Nat} (A : Word n) : (negator A).toNat = (2 ^ n - A.toNat) % 2 ^ n := by
  rw [negator_eq_neg, BitVec.toNat_neg]

/-- The Word that is its own negation, the most negative one in the signed reading. -/
theorem ofNat_two_pow_pred_eq_intMin (n : Nat) : BitVec.ofNat n (2 ^ (n - 1)) = BitVec.intMin n :=
  BitVec.eq_of_toNat_eq (by rw [BitVec.toNat_ofNat, BitVec.toNat_intMin])

/-- Settles O39: the Negator is two's-complement negation, whose one exception is the most negative Word. -/
theorem negatorNegates : Obligations.NegatorNegates := by
  intro n A
  rw [ofNat_two_pow_pred_eq_intMin]
  refine ⟨negator_toNat A, fun notMin => ?_, ?_, ?_⟩
  · rw [negator_eq_neg, BitVec.toInt_neg_of_ne_intMin notMin]
  · rw [negator_eq_neg, BitVec.neg_intMin]
  · rw [negator_eq_neg, negator_eq_neg, BitVec.neg_neg]

/-! ## The Subtractor (R94, R95) -/

/-- R94 by cases: the difference, or `2^n` more where it would be negative. -/
theorem subtractor_toNat {n : Nat} (A B : Word n) :
    (subtractor A B).toNat = if B.toNat ≤ A.toNat then A.toNat - B.toNat else 2 ^ n + A.toNat - B.toNat := by
  rw [subtractor_eq_sub]
  split
  next noWrap => exact BitVec.toNat_sub_of_le noWrap
  next wraps =>
    rw [BitVec.toNat_sub_of_lt (Nat.lt_of_not_le wraps)]
    omega

/-- R94 in one line: adding the complement `2^n - B` is subtracting `B`, up to a multiple of `2^n`. -/
theorem subtractor_toNat_eq_emod {n : Nat} (A B : Word n) :
    ((subtractor A B).toNat : Int) = ((A.toNat : Int) - (B.toNat : Int)) % 2 ^ n := by
  have complement : ((2 ^ n - B.toNat : Nat) : Int) = 2 ^ n - (B.toNat : Int) := by
    rw [Nat.cast_sub B.isLt.le, Nat.cast_pow, Nat.cast_ofNat]
  calc ((subtractor A B).toNat : Int)
      = (2 ^ n - (B.toNat : Int) + A.toNat) % 2 ^ n := by
        rw [subtractor_eq_sub, BitVec.toNat_sub, Int.natCast_emod, Nat.cast_add, complement, Nat.cast_pow,
          Nat.cast_ofNat]
    _ = ((A.toNat : Int) - B.toNat + 2 ^ n) % 2 ^ n := congrArg (· % 2 ^ n) (by ring)
    _ = ((A.toNat : Int) - B.toNat) % 2 ^ n := Int.add_emod_right _ _

/-- Settles O40: both forms of R94, and the document's example by what the Subtractor computes. -/
theorem subtractorSubtracts : Obligations.SubtractorSubtracts :=
  ⟨fun _ A B => ⟨subtractor_toNat_eq_emod A B, subtractor_toNat A B⟩, by rw [subtractor_eq_sub]; rfl⟩

/-- The carry-in constant of the derived components is no addend. -/
theorem constCarryIn_toNat : constCarryIn.toNat = 0 := rfl

/-- R95: the addend is 0 at `B = 0`, and else `2^n - B`, which carries exactly where `A` makes up for `B`. -/
theorem subtractorAdder_CARRY {n : Nat} (A B : Word n) :
    (subtractorAdder A B).CARRY = if B ≠ 0 ∧ B.toNat ≤ A.toNat then 1 else 0 := by
  rw [subtractorAdder, adder_CARRY_eq_ite, constCarryIn_toNat, Nat.add_zero, negator_eq_neg]
  by_cases hB : B = 0
  · subst hB
    have addend : (-(0 : Word n)).toNat = 0 := by simp
    rw [addend, Nat.add_zero, if_neg A.isLt.not_ge, if_neg fun ⟨nonzero, _⟩ => nonzero rfl]
  · have addend : (-B).toNat = 2 ^ n - B.toNat := BitVec.toNat_neg_of_pos ((BitVec.pos_iff_ne_zero B).mpr hB)
    have carries_iff : 2 ^ n ≤ A.toNat + (2 ^ n - B.toNat) ↔ B ≠ 0 ∧ B.toNat ≤ A.toNat := by
      have B_lt := B.isLt
      rw [and_iff_right hB]
      omega
    rw [addend, if_congr carries_iff rfl rfl]

/-- Settles O41: the carry of the outer Adder, and the port list, where it does not stand. -/
theorem subtractorInnerCarry : Obligations.SubtractorInnerCarry :=
  ⟨fun _ => subtractorAdder_CARRY, fun _ => rfl⟩

/-! ## The rows of the Multiplier (R97, R98, R101) -/

theorem multiplicandAt_toNat {n : Nat} (A : Word n) (i : Nat) :
    (multiplicandAt A i).toNat = A.toNat * 2 ^ i % 2 ^ n := by
  rw [multiplicandAt_eq_shiftLeft, BitVec.toNat_shiftLeft, Nat.shiftLeft_eq]

/-- Row `i` contributes `A` times what the multiplier holds in lane `i`. -/
theorem partialProduct_toNat {n : Nat} (A B : Word n) {i : Nat} (h : i < n) :
    (partialProduct A B i).toNat = A.toNat * (2 ^ i * (lane B i).toNat) % 2 ^ n := by
  rw [partialProduct, switch_toNat, elem_splitter B i h, multiplicandAt_toNat]
  rcases bit_cases (lane B i) with bit | bit
  · rw [bit, bit_toNat_zero, Nat.mul_zero, Nat.mul_zero, Nat.mul_zero, Nat.zero_mod]
  · rw [bit, bit_toNat_one, Nat.mul_one, Nat.mul_one]

/-- R98: every row adds one more bit of the multiplier to the product. -/
theorem slot0At_toNat {n : Nat} (A B : Word n) {i : Nat} (h : i < n) :
    (slot0At A B i).toNat = A.toNat * (B.toNat % 2 ^ (i + 1)) % 2 ^ n := by
  induction i with
  | zero => rw [slot0At_zero, partialProduct_toNat A B h, toNat_mod_two_pow_succ, pow_zero, Nat.mod_one, Nat.zero_add]
  | succ i ih =>
    rw [slot0At_succ, adder_constCarryIn_SUM, BitVec.toNat_add, ih (by omega), partialProduct_toNat A B h,
      ← Nat.add_mod, ← Nat.mul_add, ← toNat_mod_two_pow_succ]

/-- The row invariant as a Word. -/
theorem slot0At_eq_ofNat {n : Nat} (A B : Word n) {i : Nat} (h : i < n) :
    slot0At A B i = BitVec.ofNat n (A.toNat * (B.toNat % 2 ^ (i + 1))) :=
  BitVec.eq_of_toNat_eq (by rw [slot0At_toNat A B h, BitVec.toNat_ofNat])

/-- The accumulator column of the trace of R98, as the row invariant gives it. -/
theorem slot0At_trace :
    (List.range 8).map (slot0At (13 : Word 8) 19) = [13, 39, 39, 39, 247, 247, 247, 247] := by
  rw [List.map_congr_left fun i hi => slot0At_eq_ofNat (13 : Word 8) 19 (List.mem_range.mp hi)]
  rfl

/-- Settles O42: the row invariant by induction on the row, and the trace, whose accumulator column it gives. -/
theorem multiplierRowInvariant : Obligations.MultiplierRowInvariant :=
  ⟨fun _ A B _ => slot0At_toNat A B, fun _ => multiplicandAt_toNat, by decide, by decide, by decide, slot0At_trace⟩

/-- R101: the shift moves every lane up by `i` and feeds 0 from below. -/
theorem lane_multiplicandAt {n : Nat} (A : Word n) (i : Nat) {j : Nat} (h : j < n) :
    lane (multiplicandAt A i) j = if i ≤ j then lane A (j - i) else 0 := by
  rw [multiplicandAt_eq_shiftLeft, lane_eq, lane_eq, BitVec.getLsbD_shiftLeft]
  split
  next inside => simp [h, Nat.not_lt_of_le inside]
  next below => simp [Nat.lt_of_not_le below]

/-- Settles O43: the lane rule of the shift, at every row. -/
theorem shiftedMultiplicandLanes : Obligations.ShiftedMultiplicandLanes :=
  fun _ A i _ => lane_multiplicandAt A i

/-! ## The whole Multiplier (R99) -/

/-- Settles O44: the rows add up to the product of Words, whose value and commutativity are the library's. -/
theorem multiplierMultiplies : Obligations.MultiplierMultiplies :=
  ⟨fun _ A B => ⟨by rw [multiplier_eq_mul, BitVec.toNat_mul],
    by rw [multiplier_eq_mul, multiplier_eq_mul, BitVec.mul_comm]⟩, by rw [multiplier_eq_mul]; rfl⟩

end Sys2Proof.Machine

/-! PROOFS of the family spec/45_alu.md: the datapath is a multiplexer over the seven units and computes the reference
function, each opcode shows its unit on `Y` and changes nothing else, and the opcodes obey the laws of the integers modulo
`2^n`. -/

namespace Sys2Proof.Machine

open Sys2Proof

/-! ## The OR tree and the slots (R108, R109) -/

/-- Settles O17: each gate of the tree is a bitwise OR, and OR is associative. -/
theorem orTreeIsEightWayOr : Obligations.OrTreeIsEightWayOr := by
  intro n g
  simp only [orTree, orGate_eq, BitVec.or_assoc]

/-- Where no enable line with a Switch on it is 1, every slot is the Word 0. -/
theorem aluSlots_of_disabled {n : Nat} (f : Vector (Word n) 7) {en : BitVector 8}
    (hen : ∀ (k : Nat) (h : k < 7), en[k] = 0) : aluSlots f en = Vector.replicate 8 0 := by
  simp only [aluSlots, hen, Nat.reduceLT, switch_zero]
  rfl

/-! ## The datapath as a multiplexer (R110, R111, R120) -/

theorem decode_opc_toNat (op : OpByte) : (decode op).opc.toNat = op.toNat % 8 := by rw [opc_decode, opcField_toNat]

/-- The unit that an instruction selects is the function with its row's number; the reserved row has none (R107, R108). -/
theorem unitOutput_eq_dite {n : Nat} (A B : Word n) (i : Instr) :
    unitOutput A B i = if h : i.opc.toNat < 7 then (aluFunctions A B)[i.opc.toNat] else 0 := by
  cases i <;> rfl

theorem alu_eq_dite {n : Nat} (A B : Word n) (op : OpByte) :
    alu A B op = if h : op.toNat % 8 < 7 then (aluFunctions A B)[op.toNat % 8] else 0 := by
  simp only [alu_eq_unitOutput, unitOutput_eq_dite, decode_opc_toNat]

/-- Settles O14: the two branches of `alu_eq_dite`. -/
theorem datapathIsMultiplexer : Obligations.DatapathIsMultiplexer := by
  refine fun n A B op => ⟨fun k hk => ?selected, fun hk => ?reserved⟩
  case selected =>
    rw [alu_eq_dite, dif_pos (by omega)]
    simp only [hk, Fin.getElem_fin]
  case reserved => rw [alu_eq_dite, dif_neg (by omega)]

/-- Settles O15: the enable vector is one-hot at the decoded row, whose unit computes the row's reference function. -/
theorem datapathComputesReference : Obligations.DatapathComputesReference :=
  fun _ => alu_eq_aluReference

/-- Settles O16: the decoded unit is the one that gating and OR-reduction leave. -/
theorem stepShowsTheDatapath : Obligations.StepShowsTheDatapath :=
  fun _ => step_of_none_eq_alu

theorem alu_eq_of_mod_eq {n : Nat} (A B : Word n) {op op' : OpByte} (h : op.toNat % 8 = op'.toNat % 8) :
    alu A B op = alu A B op' := by
  simp only [alu_eq_dite, h]

/-! ## What the datapath shows for each opcode (R112 to R119) -/

section opcodes

variable {n : Nat} (A B : Word n)

theorem alu_or : alu A B 0 = A ||| B := alu_eq_aluReference A B 0

theorem alu_nand : alu A B 1 = ~~~(A &&& B) := alu_eq_aluReference A B 1

theorem alu_nor : alu A B 2 = ~~~(A ||| B) := alu_eq_aluReference A B 2

theorem alu_and : alu A B 3 = A &&& B := alu_eq_aluReference A B 3

theorem alu_add : alu A B 4 = A + B := alu_eq_aluReference A B 4

theorem alu_sub : alu A B 5 = A - B := alu_eq_aluReference A B 5

theorem alu_mul : alu A B 6 = A * B := alu_eq_aluReference A B 6

theorem alu_rsvd7 : alu A B 7 = 0 := alu_eq_aluReference A B 7

theorem alu_add_toNat : (alu A B 4).toNat = (A.toNat + B.toNat) % 2 ^ n := by rw [alu_add, BitVec.toNat_add]

/-- R94 at the opcode: SUB is the Subtractor. -/
theorem alu_sub_eq_subtractor : alu A B 5 = subtractor A B := by rw [alu_sub, subtractor_eq_sub]

theorem alu_mul_toNat : (alu A B 6).toNat = A.toNat * B.toNat % 2 ^ n := by rw [alu_mul, BitVec.toNat_mul]

end opcodes

/-- Settles O18: `op` and `op mod 8` have the same residue, which is all that selects. -/
theorem upperOpcodeBitsIgnored : Obligations.UpperOpcodeBitsIgnored := by
  refine ⟨fun n A B op => alu_eq_of_mod_eq A B ?sameRow, ?addAtTwelve, ?reservedAt255⟩
  case sameRow => rw [BitVec.toNat_ofNat]; omega
  case addAtTwelve => rw [alu_eq_of_mod_eq (op := 12) (op' := 4) _ _ rfl, alu_add]; rfl
  case reservedAt255 => rw [alu_eq_of_mod_eq (op := 255) (op' := 7) _ _ rfl, alu_rsvd7]

/-! ## The eight opcodes (R112 to R119) -/

/-- The row's match under the mask of the opcode table (R48), for every value of the ignored bits. -/
theorem encode_and_mask (i : Instr) {rowMatch : OpByte} (hmatch : rowMatch.toNat = i.opc.toNat) :
    encode i &&& 0x07#8 = rowMatch :=
  (and_mask_eq_match_iff hmatch (ignField_encode i).symm).2 (decode_encode i)

/-- Settles O6: the OR gate on the ports. -/
theorem orOpcode : Obligations.OrOpcode := by
  refine ⟨fun ign s => ?meaning, fun ign => encode_and_mask (.or ign) rfl, fun n A => ?corners, ?sample⟩
  case meaning => rw [exec_eq_unitOutput, unitOutput, orGate_eq]
  case corners =>
    simp only [alu_or]
    exact ⟨BitVec.or_zero, BitVec.or_self, BitVec.or_allOnes⟩
  case sample => rw [alu_or]; rfl

/-- Settles O7: the NAND gate on the ports. -/
theorem nandOpcode : Obligations.NandOpcode := by
  refine ⟨fun ign s => ⟨?meaning, BitVec.toNat_not⟩, fun ign => encode_and_mask (.nand ign) rfl, fun n A => ?corners,
    ?sample⟩
  case meaning => rw [exec_eq_unitOutput, unitOutput, nandGate_eq]
  case corners =>
    simp only [alu_nand, BitVec.and_self]
    exact ⟨trivial, nandGate_zero A, BitVec.not_allOnes⟩
  case sample => rw [alu_nand]; rfl

/-- Settles O8: the NOR gate on the ports. -/
theorem norOpcode : Obligations.NorOpcode := by
  refine ⟨fun ign s => ⟨?meaning, BitVec.toNat_not⟩, fun ign => encode_and_mask (.nor ign) rfl, fun n A => ?corners,
    ?sample⟩
  case meaning => rw [exec_eq_unitOutput, unitOutput, norGate_eq]
  case corners =>
    simp only [alu_nor, BitVec.or_self, BitVec.or_allOnes]
    exact ⟨trivial, BitVec.not_zero, BitVec.not_allOnes⟩
  case sample => rw [alu_nor]; rfl

/-- Settles O9: the AND gate on the ports. -/
theorem andOpcode : Obligations.AndOpcode := by
  refine ⟨fun ign s => ?meaning, fun ign => encode_and_mask (.and ign) rfl, fun n A => ?corners, ?sample⟩
  case meaning => rw [exec_eq_unitOutput, unitOutput, andGate_eq]
  case corners =>
    simp only [alu_and]
    exact ⟨BitVec.and_zero, BitVec.and_self, BitVec.and_allOnes⟩
  case sample => rw [alu_and]; rfl

/-- Settles O10: the ripple-carry Adder at carry-in 0 on the ports. -/
theorem addOpcode : Obligations.AddOpcode := by
  refine ⟨fun ign s => ⟨_, exec_eq_unitOutput _ s, adder_SUM_toNat s.A s.B constCarryIn, rfl⟩,
    fun ign => encode_and_mask (.add ign) rfl, fun n A => ⟨?zero, ?wraps, ?double⟩, ?sample, ?sampleWraps⟩
  case zero => rw [alu_add]; exact add_zero A
  case wraps => rw [alu_add, ← BitVec.neg_one_eq_allOnes]; exact neg_add_cancel 1
  case double => rw [alu_add_toNat, Nat.two_mul]
  case sample => rw [alu_add]; rfl
  case sampleWraps => rw [alu_add]; rfl

/-- Settles O11: the Subtractor on the ports. -/
theorem subOpcode : Obligations.SubOpcode := by
  refine ⟨fun ign s => ⟨_, exec_eq_unitOutput _ s, subtractor_toNat_eq_emod s.A s.B, rfl⟩,
    fun ign => encode_and_mask (.sub ign) rfl, fun n A B => ⟨?zero, ?self, ?negation, ?mostNegative⟩, ?sample,
    ?sampleWraps⟩
  case zero => rw [alu_sub]; exact sub_zero A
  case self => rw [alu_sub]; exact sub_self A
  case negation => rw [alu_sub, ← BitVec.toNat_neg]; exact congrArg BitVec.toNat (zero_sub B)
  case mostNegative =>
    rw [alu_sub, ofNat_two_pow_pred_eq_intMin]
    exact (zero_sub _).trans BitVec.neg_intMin
  case sample => rw [alu_sub]; rfl
  case sampleWraps => rw [alu_sub]; rfl

/-- Settles O12: the shift-and-add Multiplier on the ports. -/
theorem mulOpcode : Obligations.MulOpcode := by
  refine ⟨fun ign s => ⟨_, exec_eq_unitOutput _ s, ?value, rfl⟩, fun ign => encode_and_mask (.mul ign) rfl,
    fun n A => ⟨?zero, ?one, fun k => ?shift, ?allOnes⟩, ?sample, ?sampleWraps⟩
  case value => rw [unitOutput, multiplier_eq_mul, BitVec.toNat_mul]
  case zero => rw [alu_mul]; exact mul_zero A
  case one => rw [alu_mul]; exact mul_one A
  case shift => rw [alu_mul_toNat, BitVec.toNat_ofNat, Nat.mul_mod_mod, Nat.shiftLeft_eq]
  case allOnes => rw [alu_mul, ← BitVec.neg_one_eq_allOnes]; exact (neg_mul_neg 1 1).trans (one_mul 1)
  case sample => rw [alu_mul]; rfl
  case sampleWraps => rw [alu_mul]; rfl

/-- The reserved opcode's enable line is line 7 (R106, R119). -/
theorem enableVector_rsvd7 (ign : BitVec 5) (k : Nat) (h : k < 8) :
    (enableVector (encode (.rsvd7 ign)))[k] = if k = 7 then 1 else 0 := by
  rw [enableVector_getElem, decode_encode]
  rfl

/-- Settles O13: line 7 has no Switch, so all slots are 0. -/
theorem reservedOpcodeYieldsZero : Obligations.ReservedOpcodeYieldsZero := by
  refine ⟨fun ign s => exec_eq_unitOutput _ s, fun ign => encode_and_mask (.rsvd7 ign) rfl,
    fun n A B ign => ⟨enableVector_rsvd7 ign 7 (by decide), fun k => ?slots, ?output⟩, alu_rsvd7 _ _⟩
  case slots =>
    rw [aluSlots_of_disabled _ fun j hj => by rw [enableVector_rsvd7 ign j (by omega), if_neg (by omega)]]
    exact Vector.getElem_replicate k.isLt
  case output => rw [alu_eq_unitOutput, decode_encode]; rfl

/-! ## Arithmetic modulo `2^n` (R124, R125) -/

/-- Settles O19: Words with `+`, `-` and `*` are a commutative ring, and the three units compute its operations. -/
theorem arithmeticIsTheRingModuloTwoToTheN : Obligations.ArithmeticIsTheRingModuloTwoToTheN := by
  intro n A B C
  refine ⟨?addComm, ?mulComm, ?addAssoc, ?mulAssoc, ?distrib, fun Y => ?difference, alu_add_toNat A B, ?sub,
    alu_mul_toNat A B⟩
  case addComm => simp only [alu_add, add_comm]
  case mulComm => simp only [alu_mul, mul_comm]
  case addAssoc => simp only [alu_add, add_assoc]
  case mulAssoc => simp only [alu_mul, mul_assoc]
  case distrib => simp only [alu_add, alu_mul, mul_add]
  case difference => rw [alu_add, alu_sub, eq_sub_iff_add_eq]
  case sub => rw [alu_sub_eq_subtractor, subtractor_toNat_eq_emod]

/-- Reduction modulo `2^n` changes exactly the numbers that no Word of width `n` has. -/
theorem mod_two_pow_ne_self_iff (n k : Nat) : k % 2 ^ n ≠ k ↔ 2 ^ n ≤ k := by
  rw [Ne, Nat.mod_eq_iff_lt (Nat.two_pow_pos n).ne', Nat.not_lt]

/-- Settles O20: sum and product wrap when they reach `2^n`, the difference when it is negative. -/
theorem overflowWraps : Obligations.OverflowWraps := by
  refine ⟨fun n A B => ⟨?add, ?sub, ?mul⟩, ?addMax, ?subMax, ?mulMax, ?mulSixteen⟩
  case add => rw [alu_add_toNat, mod_two_pow_ne_self_iff]
  case mul => rw [alu_mul_toNat, mod_two_pow_ne_self_iff]
  case sub =>
    have B_lt := B.isLt
    rw [alu_sub_eq_subtractor, subtractor_toNat]
    split <;> omega
  case addMax => rw [alu_add]; rfl
  case subMax => rw [alu_sub]; rfl
  case mulMax => rw [alu_mul]; rfl
  case mulSixteen => rw [alu_mul]; rfl

/-! ## Identities across opcodes (R121, R129) -/

/-- A Word is its lanes where another has a 1, and its lanes where that one has a 0. -/
theorem and_add_not_and {n : Nat} (A B : Word n) : (A &&& B) + (~~~A &&& B) = B := by
  have disjoint : (A &&& B) &&& (~~~A &&& B) = 0#n := by ext i hi; cases h : A[i] <;> simp [h]
  rw [BitVec.add_eq_or_of_and_eq_zero _ _ disjoint]
  ext i hi
  cases h : A[i] <;> simp [h]

/-- OR adds to `A` the lanes of `B` where `A` has a 0. -/
theorem or_eq_add_not_and {n : Nat} (A B : Word n) : A ||| B = A + (~~~A &&& B) := by
  have disjoint : A &&& (~~~A &&& B) = 0#n := by ext i hi; cases h : A[i] <;> simp [h]
  rw [BitVec.add_eq_or_of_and_eq_zero _ _ disjoint]
  ext i hi
  cases h : A[i] <;> simp [h]

/-- R129 (c): what OR leaves out of `B`, the lanes that it shares with `A`, is what AND adds again. -/
theorem or_add_and {n : Nat} (A B : Word n) : (A ||| B) + (A &&& B) = A + B := by
  rw [or_eq_add_not_and, add_assoc, add_comm (~~~A &&& B), and_add_not_and]

/-- A sum of two numbers below `m` has wrapped exactly when it is below one of them. -/
theorem add_mod_lt_left_iff {a b m : Nat} (ha : a < m) (hb : b < m) : (a + b) % m < a ↔ m ≤ a + b := by
  rcases Nat.lt_or_ge (a + b) m with small | wraps
  · rw [Nat.mod_eq_of_lt small]; omega
  · rw [Nat.mod_eq_sub_mod wraps, Nat.mod_eq_of_lt (by omega)]; omega

/-- R121: the carry that ADD leaves unconnected, from operand and result. -/
theorem adder_CARRY_eq_one_iff {n : Nat} (A B : Word n) :
    (adder A B 0).CARRY = 1 ↔ (alu A B 4).toNat < A.toNat := by
  rw [adder_CARRY_eq_ite, bit_toNat_zero, Nat.add_zero, alu_add_toNat, add_mod_lt_left_iff A.isLt B.isLt]
  split
  next reaches => exact iff_of_true rfl reaches
  next below => exact iff_of_false (by decide) below

/-- Settles O21: the ring laws, `-A = ~A + 1`, and `or_add_and`. -/
theorem identitiesAcrossOpcodes : Obligations.IdentitiesAcrossOpcodes := by
  intro n A B
  refine ⟨?nand, ?nor, ?orAndSum, ?addSub, ?subAdd, ?negNeg, ?negation, ?mulComm, ?mulSucc, adder_CARRY_eq_one_iff A B⟩
  case nand => rw [alu_nand, alu_and]
  case nor => rw [alu_nor, alu_or]
  case orAndSum => rw [alu_or, alu_and, alu_add, alu_add, or_add_and]
  case addSub => rw [alu_add, alu_sub, add_sub_cancel_right]
  case subAdd => rw [alu_sub, alu_add, sub_add_cancel]
  case negNeg => rw [alu_sub, alu_sub, sub_sub_cancel]
  case negation =>
    rw [alu_nand, alu_add, alu_sub, BitVec.and_self, zero_sub]
    exact (BitVec.neg_eq_not_add A).symm
  case mulComm => rw [alu_mul, alu_mul, mul_comm]
  case mulSucc => rw [alu_add, alu_mul, alu_mul, alu_add, mul_add, mul_one]

/-! ## The signed reading (R126, R128) -/

/-- Settles O22: the signed readings of the ring operations are the library's; the numbers by what the opcodes compute. -/
theorem signedReadingIsModular : Obligations.SignedReadingIsModular := by
  refine ⟨fun n A B => ⟨?add, ?sub, ?mul, ?mulZero, ?zeroMul⟩, ?numbers⟩
  case add => rw [alu_add, BitVec.toInt_add]
  case sub => rw [alu_sub, BitVec.toInt_sub]
  case mul => rw [alu_mul, BitVec.toInt_mul]
  case mulZero => rw [alu_mul]; exact mul_zero A
  case zeroMul => rw [alu_mul]; exact zero_mul B
  case numbers =>
    rw [alu_mul, alu_mul, alu_mul, alu_mul, alu_add, alu_sub]
    decide

end Sys2Proof.Machine

/-! PROOFS of the family spec/60_exceptions.md: the two failures of a `run` call, their causes and their ranking, the calls that
succeed, and that neither a failure nor an opcode stops the machine. -/

namespace Sys2Proof.Machine

open Sys2Proof

/-! ## MissingField (R132) -/

/-- A component that can be built fails on any absent required field, and the name it gives is that of an absent one. -/
theorem run_of_mem_absentFields {c : Component} {m : Fields} {g : PortName} (hwf : c.wf = true)
    (hg : g ∈ absentFields c m) : ∃ f ∈ absentFields c m, run c m = .fault (.missingField f) := by
  rcases run_cases c m with ⟨hw, _⟩ | ⟨_, f, fs, habsent, e⟩ | ⟨_, habsent, _⟩
  · simp [hwf] at hw
  · exact ⟨_, habsent ▸ namedMissing_mem c m f fs, e⟩
  · simp [habsent] at hg

/-- Where only one required field is absent, the failure names it: the free value of U13 has no choice. -/
theorem run_of_only_absent {c : Component} {m : Fields} {g : PortName} (hwf : c.wf = true) (hg : g ∈ absentFields c m)
    (honly : ∀ f ∈ absentFields c m, f = g) : run c m = .fault (.missingField g) := by
  obtain ⟨f, hf, hrun⟩ := run_of_mem_absentFields hwf hg
  rwa [honly f hf] at hrun

/-- Settles O45: the failure names a member of `absentFields`, which is the one absent field where there is one. -/
theorem missingFieldFails : Obligations.MissingFieldFails := by
  intro c m g hwf hport hnone
  obtain ⟨f, hf, hrun⟩ := run_of_mem_absentFields hwf (mem_absentFields.mpr ⟨hport, hnone⟩)
  obtain ⟨hfport, hfnone⟩ := mem_absentFields.mp hf
  exact ⟨f, hrun, hfport, hfnone, fun honly => honly f hfport hfnone⟩

/-! ## InvalidRange (R133) -/

/-- The carry-in is checked for "exactly two components" (R133). -/
theorem rangeChecksCarry_iff (c : Component) : rangeChecksCarry c = true ↔ c = .fullAdder ∨ ∃ n : Nat, c = .adder n := by
  cases c <;> simp [rangeChecksCarry]

/-- Both of them require the same three fields. -/
theorem mem_ports_iff_of_rangeChecksCarry {c : Component} (h : rangeChecksCarry c = true) (f : PortName) :
    f ∈ (inputPorts c).map Prod.fst ↔ f = .A ∨ f = .B ∨ f = .C := by
  obtain rfl | ⟨n, rfl⟩ := (rangeChecksCarry_iff c).mp h <;> simp [inputPorts]

theorem absentFields_eq_nil_iff_of_rangeChecksCarry {c : Component} {m : Fields} (h : rangeChecksCarry c = true) :
    absentFields c m = [] ↔ field m .A ≠ none ∧ field m .B ≠ none ∧ field m .C ≠ none := by
  rw [absentFields_eq_nil_iff]
  obtain rfl | ⟨n, rfl⟩ := (rangeChecksCarry_iff c).mp h <;> simp [inputPorts]

/-- A carry-in that is there and fails the check is a value that is no Bit. -/
theorem carryInRange_eq_false_iff {m : Fields} (h : field m .C ≠ none) :
    carryInRange m = false ↔ ∃ v : FieldValue, field m .C = some v ∧ v.isBit = false := by
  obtain ⟨v, hv⟩ := Option.ne_none_iff_exists'.mp h
  simp [carryInRange, hv]

/-- When a call fails with InvalidRange: the carry-in is checked, every required field is there, and `C` holds no Bit. -/
theorem run_eq_invalidRange_iff (c : Component) (m : Fields) (f : PortName) :
    run c m = .fault (.invalidRange f) ↔ f = .C ∧ c.wf = true ∧ rangeChecksCarry c = true ∧ absentFields c m = [] ∧
      ∃ v : FieldValue, field m .C = some v ∧ v.isBit = false := by
  constructor
  · intro h
    rcases run_cases c m with ⟨_, e⟩ | ⟨_, _, _, _, e⟩ |
        ⟨hwf, habsent, ⟨hchecks, hrange, e⟩ | ⟨_, ⟨_, _, e⟩ | ⟨_, e⟩⟩⟩ <;>
      rw [e] at h <;> cases h
    obtain ⟨_, _, hc⟩ := (absentFields_eq_nil_iff_of_rangeChecksCarry hchecks).mp habsent
    exact ⟨rfl, hwf, hchecks, habsent, (carryInRange_eq_false_iff hc).mp hrange⟩
  · rintro ⟨rfl, hwf, hchecks, habsent, hv⟩
    obtain ⟨_, _, hc⟩ := (absentFields_eq_nil_iff_of_rangeChecksCarry hchecks).mp habsent
    have hrange : carryInRange m = false := (carryInRange_eq_false_iff hc).mpr hv
    simp [run, hwf, habsent, hchecks, hrange]

/-- The failing calls of the two components, on an integer `C` (R133). -/
theorem run_of_carry_out_of_range {c : Component} {m : Fields} {a b : FieldValue} {k : Int} (hwf : c.wf = true)
    (hchecks : rangeChecksCarry c = true) (ha : field m .A = some a) (hb : field m .B = some b)
    (hc : field m .C = some (.int k)) (hzero : k ≠ 0) (hone : k ≠ 1) : run c m = .fault (.invalidRange .C) := by
  have habsent : absentFields c m = [] :=
    (absentFields_eq_nil_iff_of_rangeChecksCarry hchecks).mpr ⟨by simp [ha], by simp [hb], by simp [hc]⟩
  exact (run_eq_invalidRange_iff c m .C).mpr
    ⟨rfl, hwf, hchecks, habsent, .int k, hc, decide_eq_false (not_or.mpr ⟨hzero, hone⟩)⟩

/-- Settles O46: `run_of_carry_out_of_range` at the two components, and `run_eq_invalidRange_iff` for the converse. -/
theorem carryInOutOfRangeFails : Obligations.CarryInOutOfRangeFails := by
  refine ⟨fun m a b k ha hb hc hzero hone => ⟨?fullAdder, fun n hn => ?adder⟩, fun c m f h => ?converse⟩
  case fullAdder => exact run_of_carry_out_of_range rfl rfl ha hb hc hzero hone
  case adder => exact run_of_carry_out_of_range (decide_eq_true hn) rfl ha hb hc hzero hone
  case converse =>
    obtain ⟨hf, _, hchecks, _, hv⟩ := (run_eq_invalidRange_iff c m f).mp h
    exact ⟨hf, (rangeChecksCarry_iff c).mp hchecks, hv⟩

/-! ## No third failure, and the ranking of the two (R134, R136, R137, R139) -/

/-- Settles O47: the two causes of `run_fault`; in the second, `C` is there because MissingField ranks first. -/
theorem noOtherFailure : Obligations.NoOtherFailure := by
  intro c m r h
  obtain ⟨_, hmissing | ⟨rfl, hchecks, _⟩⟩ := run_fault h
  · exact .inl hmissing
  · obtain ⟨_, _, _, _, hv⟩ := (run_eq_invalidRange_iff c m .C).mp h
    exact .inr ⟨rfl, hchecks, hv⟩

/-- A FullAdder or Adder call that lacks `A` alone names it, whatever `C` holds. -/
theorem run_of_only_A_absent {c : Component} {m : Fields} (hwf : c.wf = true) (hchecks : rangeChecksCarry c = true)
    (ha : field m .A = none) (hb : field m .B ≠ none) (hc : field m .C ≠ none) :
    run c m = .fault (.missingField .A) := by
  refine run_of_only_absent hwf
    (mem_absentFields.mpr ⟨(mem_ports_iff_of_rangeChecksCarry hchecks .A).mpr (.inl rfl), ha⟩) fun f hf => ?_
  obtain ⟨hport, hnone⟩ := mem_absentFields.mp hf
  obtain rfl | rfl | rfl := (mem_ports_iff_of_rangeChecksCarry hchecks f).mp hport
  · rfl
  · exact absurd hnone hb
  · exact absurd hnone hc

/-- Settles O48: an absent field fails the call whatever `C` holds. -/
theorem missingFieldRanksFirst : Obligations.MissingFieldRanksFirst := by
  refine ⟨fun c m g v hwf _ hport hnone _ _ => ?anyField, fun m ha hb hc => ?onlyA⟩
  case anyField =>
    obtain ⟨f, _, hrun⟩ := run_of_mem_absentFields hwf (mem_absentFields.mpr ⟨hport, hnone⟩)
    exact ⟨f, hrun⟩
  case onlyA =>
    have hpresent : field m .C ≠ none := by simp [hc]
    exact ⟨run_of_only_A_absent rfl rfl ha hb hpresent,
      fun n hn => run_of_only_A_absent (decide_eq_true hn) rfl ha hb hpresent⟩

/-! ## The calls that succeed (R135, R151) -/

theorem callerDuties_iff (c : Component) (m : Fields) :
    callerDuties c m = true ↔
      c.wf = true ∧ ∀ p ∈ inputPorts c, ∃ v : FieldValue, field m p.1 = some v ∧ v.hasType p.2 = true := by
  rw [callerDuties, Bool.and_eq_true, List.all_eq_true]
  refine and_congr_right fun _ => forall₂_congr fun p _ => ?_
  cases field m p.1 <;> simp

/-- A value in its port's type always has a meaning. -/
theorem fieldAccepted_of_hasType {c : Component} {f : PortName} {t : PortType} {v : FieldValue}
    (h : v.hasType t = true) : fieldAccepted c f t v = true := by
  rw [fieldAccepted, h, Bool.true_or]

theorem evaluate_isSome_of_callerDuties {c : Component} {m : Fields} (h : callerDuties c m = true) :
    (evaluate c m).isSome = true := by
  rw [evaluate_isSome, List.all_eq_true]
  intro p hp
  obtain ⟨v, hv, htype⟩ := ((callerDuties_iff c m).mp h).2 p hp
  rw [hv, Option.any_some, fieldAccepted_of_hasType htype]

/-- Settles O49: the typed component answers, its outputs are in their types, and neither check stands in the way. -/
theorem dutifulCallsSucceed : Obligations.DutifulCallsSucceed := by
  intro c m h
  obtain ⟨hwf, _⟩ := (callerDuties_iff c m).mp h
  obtain ⟨outs, heval⟩ := Option.isSome_iff_exists.mp (evaluate_isSome_of_callerDuties h)
  exact ⟨outs, run_of_evaluate hwf heval, (evaluate_answersPorts heval).typed⟩

/-! ## A failed call and the machine (R138, R140, R141) -/

/-- What a call hands back is never a fault of the machine. -/
theorem finishCall_ne_fault (c : Component) (o : Host.Outcome Fields Fault Refusal) (s : State) (r : Fault) :
    finishCall c o s ≠ .fault r := by
  cases o <;> simp

/-- Only a refused call stays refused. -/
theorem finishCall_eq_refused_iff (c : Component) (o : Host.Outcome Fields Fault Refusal) (s : State) (r : Refusal) :
    finishCall c o s = .refused r ↔ o = .refused r := by
  cases o <;> simp

theorem step_ne_fault (s : State) (r : Fault) : step s ≠ .fault r := by
  cases hcall : s.call with
  | none => simp [step_of_none_eq_alu hcall]
  | some c =>
    rw [step_of_some hcall]
    exact finishCall_ne_fault _ _ _ _

/-- An evaluation of the ALU always answers a next state, so a refused step had a call presented. -/
theorem call_ne_none_of_step_refused {s : State} {r : Refusal} (h : step s = .refused r) : s.call ≠ none := by
  intro hcall
  rw [step_of_none_eq_alu hcall] at h
  cases h

theorem step_presentCall_eq_refused_iff (s : State) (c : Call) (r : Refusal) :
    step (s.presentCall c) = .refused r ↔ run c.component c.inputs = .refused r := by
  rw [step_of_some (s.presentCall_call c), finishCall_eq_refused_iff]

/-- Settles O26: the ALU's evaluation always answers, and a presented call hands on its own refusals only. -/
theorem onlyCallsAreRefused : Obligations.OnlyCallsAreRefused :=
  ⟨step_ne_fault, fun _ _ => call_ne_none_of_step_refused, step_presentCall_eq_refused_iff⟩

/-- The ALU's evaluation of freshly presented ports carries a record along unread. -/
theorem step_present_recordAnswer (s : State) (q : CallRecord) (a b : Word s.width) (op : OpByte) :
    ∃ u : State, step (s.present a b op) = .next u ∧
      step ((s.recordAnswer q).present a b op) = .next (u.recordAnswer q) :=
  ⟨_, step_of_none_eq_alu (s := s.present a b op) rfl,
    step_of_none_eq_alu (s := (s.recordAnswer q).present a b op) rfl⟩

/-- Settles O54: the failed call leaves only its record, which no evaluation and no call reads. -/
theorem failedCallLeavesNoTrace : Obligations.FailedCallLeavesNoTrace := by
  refine ⟨fun s c r h => step_presentCall_of_fault h, fun s t c r h hstep => ?_⟩
  rw [step_presentCall_of_fault h] at hstep
  cases hstep
  exact ⟨_, rfl, step_present_recordAnswer s _, fun d => endsAlike_all d _ _⟩

end Sys2Proof.Machine

/-! PROOFS of the family spec/70_reset_and_hazards.md: the state after reset meets the invariant; the sizes of the netlists
and the depths of their wires in closed form, from which the rows of the size table (R157) follow. -/

namespace Sys2Proof.Machine

open Sys2Proof

/-! ## Reset (R147, R149) -/

/-- With `A = B = op = 0` the datapath shows `OR(0, 0) = 0`, which is the `Y` of the reset state (R149). -/
theorem State.resetAt_settled (n : Nat) : (State.resetAt n).settled := by
  have hor : alu (0 : Word n) 0 0 = 0 := (alu_or 0 0).trans BitVec.or_self
  exact hor.symm

theorem State.resetAt_inv {n : Nat} (h : 1 ≤ n) : (State.resetAt n).Inv :=
  ⟨(State.wf_iff _).mpr ⟨h, fun _ hr => nomatch hr⟩, State.resetAt_settled n⟩

/-- Settles O23: `State.resetAt_inv`, at the model's width and at every other. -/
theorem resetMeetsTheInvariant : Obligations.ResetMeetsTheInvariant :=
  ⟨State.resetAt_inv (by decide), fun _ => State.resetAt_inv⟩

/-! ## Sizes (R157)

The NOT and NAND primitives of each component at every width. -/

@[simp] theorem PrimCount.plus_mk (a b c d : Nat) :
    PrimCount.plus { nots := a, nands := b } { nots := c, nands := d } = { nots := a + c, nands := b + d } := rfl

theorem halfAdderCount_eq : halfAdderCount = { nots := 7, nands := 4 } := rfl
theorem fullAdderCount_eq : fullAdderCount = { nots := 16, nands := 9 } := rfl
theorem decoderCount_three : decoderCount 3 = { nots := 19, nands := 16 } := rfl

theorem adderCount_eq (n : Nat) : adderCount n = { nots := 16 * n, nands := 9 * n } := by
  rw [adderCount, fullAdderCount_eq, PrimCount.times_mk]

theorem negatorCount_eq (n : Nat) : negatorCount n = { nots := 17 * n, nands := 9 * n } := by
  rw [negatorCount, adderCount_eq, notCount, PrimCount.times_mk, PrimCount.plus_mk, ← Nat.add_mul, ← Nat.add_mul]

theorem subtractorCount_eq (n : Nat) : subtractorCount n = { nots := 33 * n, nands := 18 * n } := by
  rw [subtractorCount, adderCount_eq, negatorCount_eq, PrimCount.plus_mk, ← Nat.add_mul, ← Nat.add_mul]

theorem switchCount_eq (n : Nat) : switchCount n = { nots := n, nands := n } := by
  rw [switchCount, andCount_eq, PrimCount.times_mk, Nat.one_mul]

/-- A row of Switches for each of the `n` rows, an Adder for each row but the first. -/
theorem multiplierCount_eq (n : Nat) :
    multiplierCount n = { nots := n * n + 16 * n * (n - 1), nands := n * n + 9 * n * (n - 1) } := by
  rw [multiplierCount, switchCount_eq, adderCount_eq, PrimCount.times_mk, PrimCount.times_mk, PrimCount.plus_mk]

/-- What the ALU has beside its Multiplier is linear in the width, but for the Decoder. -/
theorem aluCount_eq (n : Nat) :
    aluCount n =
      { nots := (multiplierCount n).nots + 76 * n + 19, nands := (multiplierCount n).nands + 45 * n + 16 } := by
  rw [aluCount, Config.decoderWidth, decoderCount_three, adderCount_eq, subtractorCount_eq, switchCount_eq, orCount_eq,
    norCount_eq, andCount_eq, nandCount]
  simp only [PrimCount.plus, PrimCount.times, Config.functionCount, Config.slotCount, PrimCount.mk.injEq]
  constructor <;> ring

theorem multiplierCount_total_add {n : Nat} (h : 1 ≤ n) : (multiplierCount n).total + 25 * n = 27 * n ^ 2 := by
  obtain ⟨m, rfl⟩ := Nat.exists_eq_add_of_le' h
  rw [multiplierCount_eq, PrimCount.total, Nat.add_sub_cancel]
  ring

theorem aluCount_total {n : Nat} (h : 1 ≤ n) : (aluCount n).total = 27 * n ^ 2 + 96 * n + 35 := by
  have hmul := multiplierCount_total_add h
  rw [PrimCount.total] at hmul
  rw [aluCount_eq, PrimCount.total]
  dsimp only
  omega

/-! ## Depths of the one-bit components (R157) -/

theorem andDepth_eq (a b : Nat) : andDepth a b = max a b + 2 := rfl

theorem orDepth_eq (a b : Nat) : orDepth a b = max a b + 2 := by
  rw [orDepth, nandDepth, notDepth, notDepth, Nat.add_max_add_right]

theorem xorDepth_eq (a b : Nat) : xorDepth a b = max a b + 5 := by
  rw [xorDepth, orDepth_eq, andDepth_eq, andDepth_eq, notDepth, notDepth]
  omega

/-- The carry-in meets the sum of the first HalfAdder, whose depth is that of the operands plus 5. -/
theorem fullAdderDepth_eq (a b c : Nat) :
    fullAdderDepth a b c = (max (max a b + 5) c + 5, max (max a b + 5) c + 4) := by
  simp only [fullAdderDepth, halfAdderDepth, xorDepth_eq, orDepth_eq, andDepth_eq, Prod.mk.injEq, true_and]
  omega

/-! ## Ramps

A ripple makes the depth of its sum lanes grow by 4 from each lane to the next. Such lanes, and lanes that nowhere exceed
them, are all that the arithmetic components meet. -/

/-- The depths of `n` lanes that start at `k` and grow by 4 per lane. -/
def ramp (k n : Nat) : List Nat := List.range' k n 4

theorem ramp_succ (k n : Nat) : ramp k (n + 1) = k :: ramp (k + 4) n := List.range'_succ

/-- Lane by lane, the wires are at most as deep as the ramp from `k`, and there are as many. -/
def BelowRamp (k n : Nat) (l : List Nat) : Prop := List.Forall₂ (· ≤ ·) l (ramp k n)

theorem belowRamp_zero_iff (k : Nat) (l : List Nat) : BelowRamp k 0 l ↔ l = [] := List.forall₂_nil_right_iff

theorem belowRamp_succ_iff (k n : Nat) (l : List Nat) :
    BelowRamp k (n + 1) l ↔ ∃ a as, a ≤ k ∧ BelowRamp (k + 4) n as ∧ l = a :: as := by
  rw [BelowRamp, ramp_succ, List.forall₂_cons_right_iff]
  rfl

theorem belowRamp_ramp {j k : Nat} (h : j ≤ k) (n : Nat) : BelowRamp k n (ramp j n) := by
  induction n generalizing j k with
  | zero => exact .nil
  | succ n ih => exact (belowRamp_succ_iff ..).mpr ⟨_, _, h, ih (Nat.add_le_add_right h 4), ramp_succ j n⟩

theorem belowRamp_replicate {a k : Nat} (h : a ≤ k) (n : Nat) : BelowRamp k n (List.replicate n a) := by
  induction n generalizing k with
  | zero => exact .nil
  | succ n ih => exact (belowRamp_succ_iff ..).mpr ⟨_, _, h, ih (Nat.le_add_right_of_le h), rfl⟩

theorem foldl_max_ramp {d k : Nat} (h : d ≤ k) (n : Nat) : (ramp k (n + 1)).foldl max d = k + 4 * n := by
  induction n generalizing d k with
  | zero => exact Nat.max_eq_right h
  | succ n ih =>
    rw [ramp_succ, List.foldl_cons, Nat.max_eq_right h, ih (Nat.le_add_right k 4)]
    omega

/-- The last lane of a ramp is its deepest. -/
theorem deepest_ramp (k : Nat) {n : Nat} (h : 1 ≤ n) : deepest (ramp k n) = k + 4 * (n - 1) := by
  obtain ⟨m, rfl⟩ := Nat.exists_eq_add_of_le' h
  exact foldl_max_ramp (Nat.zero_le k) m

theorem switchDepth_replicate (n a s : Nat) : switchDepth (List.replicate n a) s = List.replicate n (andDepth a s) :=
  List.map_replicate

theorem switchDepth_ramp {k s : Nat} (h : s ≤ k) (n : Nat) : switchDepth (ramp k n) s = ramp (k + 2) n := by
  induction n generalizing k with
  | zero => rfl
  | succ n ih =>
    have htail : switchDepth (ramp (k + 4) n) s = ramp (k + 2 + 4) n := ih (Nat.le_add_right_of_le h)
    rw [ramp_succ, ramp_succ, ← htail, switchDepth, List.map_cons, andDepth_eq, Nat.max_eq_left h]
    rfl

/-- The OR of a ramp with lanes below it is that ramp, two primitives deeper. -/
theorem zipWith_orDepth_ramp {k n : Nat} {l : List Nat} (h : BelowRamp k n l) :
    List.zipWith orDepth l (ramp k n) = ramp (k + 2) n := by
  induction n generalizing k l with
  | zero => rw [(belowRamp_zero_iff k l).mp h]; rfl
  | succ n ih =>
    obtain ⟨a, as, ha, has, rfl⟩ := (belowRamp_succ_iff ..).mp h
    rw [ramp_succ, ramp_succ, List.zipWith_cons_cons, orDepth_eq, Nat.max_eq_right ha, ih has]

theorem orDepth_comm (a b : Nat) : orDepth a b = orDepth b a := by rw [orDepth_eq, orDepth_eq, Nat.max_comm]

theorem zipWith_ramp_orDepth {k n : Nat} {l : List Nat} (h : BelowRamp k n l) :
    List.zipWith orDepth (ramp k n) l = ramp (k + 2) n := by
  rw [List.zipWith_comm_of_comm orDepth_comm, zipWith_orDepth_ramp h]

/-! ## Depths of the ripple (R83, R157) -/

/-- A carry that is as deep as the first HalfAdder's sum stays ahead of operands below the ramp: each position adds 4 to
the carry, and each sum lane is 5 deeper than the carry that enters it. -/
theorem adderDepth_of_deep_carry {k n : Nat} {as bs : List Nat} (ha : BelowRamp k n as) (hb : BelowRamp k n bs) :
    adderDepth as bs (k + 5) = (ramp (k + 10) n, k + 5 + 4 * n) := by
  induction n generalizing k as bs with
  | zero => rw [(belowRamp_zero_iff k as).mp ha]; rfl
  | succ n ih =>
    obtain ⟨a, as, hak, has, rfl⟩ := (belowRamp_succ_iff ..).mp ha
    obtain ⟨b, bs, hbk, hbs, rfl⟩ := (belowRamp_succ_iff ..).mp hb
    have hcarry : max (max a b + 5) (k + 5) = k + 5 := by omega
    rw [adderDepth, fullAdderDepth_eq, hcarry, ramp_succ, ih has hbs, Prod.mk.injEq]
    exact ⟨rfl, by omega⟩

/-- The carry-in 0 is masked at the first position by an operand lane of depth `k`, as a carry of depth `k + 5` would
be. -/
theorem adderDepth_of_head {k n : Nat} {as bs : List Nat} (ha : BelowRamp k n as) (hb : BelowRamp k n bs)
    (hhead : as.head? = some k ∨ bs.head? = some k) :
    adderDepth as bs 0 = (ramp (k + 10) n, k + 5 + 4 * n) := by
  rw [← adderDepth_of_deep_carry ha hb]
  cases n with
  | zero =>
    rw [(belowRamp_zero_iff k as).mp ha, (belowRamp_zero_iff k bs).mp hb] at hhead
    simp at hhead
  | succ n =>
    obtain ⟨a, as, hak, -, rfl⟩ := (belowRamp_succ_iff ..).mp ha
    obtain ⟨b, bs, hbk, -, rfl⟩ := (belowRamp_succ_iff ..).mp hb
    have hk : max a b = k := by
      simp only [List.head?_cons, Option.some.injEq] at hhead
      omega
    rw [adderDepth, adderDepth, fullAdderDepth_eq, fullAdderDepth_eq, hk, Nat.max_zero, Nat.max_self]

theorem head?_ramp (k : Nat) {n : Nat} (h : 1 ≤ n) : (ramp k n).head? = some k := by
  obtain ⟨m, rfl⟩ := Nat.exists_eq_add_of_le' h
  rw [ramp_succ, List.head?_cons]

theorem head?_replicate_of_pos (k : Nat) {n : Nat} (h : 1 ≤ n) : (List.replicate n k).head? = some k := by
  rw [List.head?_replicate, if_neg (Nat.ne_of_gt h)]

/-! ## Depths of the word components at every width (R157) -/

section widths

variable {n : Nat} (hn : 1 ≤ n)
include hn

theorem adderDepth_ports : adderDepth (portDepth n) (portDepth n) 0 = (ramp 10 n, 4 * n + 5) := by
  have hports : BelowRamp 0 n (portDepth n) := belowRamp_replicate le_rfl n
  rw [adderDepth_of_head hports hports (.inl (head?_replicate_of_pos 0 hn)), Nat.zero_add, Nat.zero_add, Nat.add_comm]

theorem negatorDepth_ports : negatorDepth (portDepth n) = ramp 11 n := by
  have hnot : (portDepth n).map notDepth = List.replicate n 1 := List.map_replicate
  have hlength : (portDepth n).length = n := List.length_replicate
  rw [negatorDepth, hnot, hlength, portDepth, adderDepth_of_head (belowRamp_replicate le_rfl n)
    (belowRamp_replicate (Nat.zero_le 1) n) (.inl (head?_replicate_of_pos 1 hn))]

theorem subtractorDepth_ports : subtractorDepth (portDepth n) (portDepth n) = ramp 21 n := by
  rw [subtractorDepth, negatorDepth_ports hn, portDepth, adderDepth_of_head (belowRamp_replicate (Nat.zero_le 11) n)
    (belowRamp_ramp le_rfl n) (.inr (head?_ramp 11 hn))]

/-- Shifting the multiplicand's lanes moves a constant in at depth 0, where the port's lanes are too. -/
theorem shiftDepth_ports : shiftDepth (portDepth n) = portDepth n := by
  obtain ⟨m, rfl⟩ := Nat.exists_eq_add_of_le' hn
  rw [shiftDepth, portDepth, List.dropLast_replicate, Nat.add_sub_cancel, List.replicate_succ]

/-- Each row makes an accumulator bus whose lanes are a ramp deeper by 10. -/
theorem multiplierRowsDepth_ramp (m : Nat) {k : Nat} (hk : 2 ≤ k) :
    multiplierRowsDepth (portDepth n) (ramp k n) (List.replicate m 0) = ramp (k + 10 * m) n := by
  induction m generalizing k with
  | zero => rfl
  | succ m ih =>
    have hrow : adderDepth (ramp k n) (switchDepth (portDepth n) 0) 0 = (ramp (k + 10) n, k + 5 + 4 * n) := by
      rw [portDepth, switchDepth_replicate]
      exact adderDepth_of_head (belowRamp_ramp le_rfl n) (belowRamp_replicate hk n) (.inl (head?_ramp k hn))
    rw [List.replicate_succ, multiplierRowsDepth, shiftDepth_ports hn, hrow, ih (by omega)]
    congr 1
    omega

/-- The second row turns the flat lanes of row 0 into a ramp; a width of 1 has row 0 only. -/
theorem multiplierDepth_ports :
    multiplierDepth (portDepth n) (portDepth n) = ramp (10 * (n - 1) + 2) n := by
  match n, hn with
  | 1, _ => rfl
  | m + 2, hn =>
    have hflat : switchDepth (portDepth (m + 2)) 0 = List.replicate (m + 2) 2 := switchDepth_replicate (m + 2) 0 0
    have hbelow : BelowRamp 2 (m + 2) (List.replicate (m + 2) 2) := belowRamp_replicate le_rfl _
    have hrow := adderDepth_of_head hbelow hbelow (.inl rfl)
    have hbits : portDepth (m + 2) = 0 :: 0 :: List.replicate m 0 := rfl
    calc multiplierDepth (portDepth (m + 2)) (portDepth (m + 2))
      _ = multiplierDepth (portDepth (m + 2)) (0 :: 0 :: List.replicate m 0) := by rw [← hbits]
      _ = multiplierRowsDepth (portDepth (m + 2)) (ramp 12 (m + 2)) (List.replicate m 0) := by
        rw [multiplierDepth, multiplierRowsDepth, shiftDepth_ports hn, hflat, hrow]
      _ = ramp (12 + 10 * m) (m + 2) := multiplierRowsDepth_ramp hn m (by decide)
      _ = ramp (10 * (m + 2 - 1) + 2) (m + 2) := by congr 1; omega

theorem longestPath_adder : longestPath (.adder n) = [(.SUM, 4 * n + 6), (.CARRY, 4 * n + 5)] := by
  have hsum : 10 + 4 * (n - 1) = 4 * n + 6 := by omega
  rw [longestPath, adderDepth_ports hn, deepest_ramp 10 hn, hsum]

theorem longestPath_negator : longestPath (.negator n) = [(.Y, 4 * n + 7)] := by
  have hlast : 11 + 4 * (n - 1) = 4 * n + 7 := by omega
  rw [longestPath, negatorDepth_ports hn, deepest_ramp 11 hn, hlast]

theorem longestPath_subtractor : longestPath (.subtractor n) = [(.Y, 4 * n + 17)] := by
  have hlast : 21 + 4 * (n - 1) = 4 * n + 17 := by omega
  rw [longestPath, subtractorDepth_ports hn, deepest_ramp 21 hn, hlast]

theorem longestPath_multiplier : longestPath (.multiplier n) = [(.Y, 14 * n - 12)] := by
  have hlast : 10 * (n - 1) + 2 + 4 * (n - 1) = 14 * n - 12 := by omega
  rw [longestPath, multiplierDepth_ports hn, deepest_ramp _ hn, hlast]

end widths

/-! ## Depth of the ALU (R107 to R109, R157) -/

theorem decoderDepth_three : decoderDepth 3 = 5 := rfl

/-- From width 3 on the Multiplier's lanes are the deepest in the OR tree, all the way from lane 0. -/
theorem aluDepth_eq {n : Nat} (h : 3 ≤ n) : aluDepth n = 14 * n - 4 := by
  have hn : 1 ≤ n := by omega
  have hmul : switchDepth (multiplierDepth (portDepth n) (portDepth n)) 5 = ramp (10 * (n - 1) + 4) n := by
    rw [multiplierDepth_ports hn, switchDepth_ramp (by omega)]
  have hadd : switchDepth (adderDepth (portDepth n) (portDepth n) 0).1 5 = ramp 12 n := by
    rw [adderDepth_ports hn, switchDepth_ramp (by decide)]
  have hsub : switchDepth (subtractorDepth (portDepth n) (portDepth n)) 5 = ramp 23 n := by
    rw [subtractorDepth_ports hn, switchDepth_ramp (by decide)]
  have harith : List.zipWith orDepth (List.zipWith orDepth (ramp 12 n) (ramp 23 n))
      (List.zipWith orDepth (ramp (10 * (n - 1) + 4) n) (portDepth n)) = ramp (10 * (n - 1) + 8) n := by
    rw [zipWith_orDepth_ramp (belowRamp_ramp (by decide) n), portDepth,
      zipWith_ramp_orDepth (belowRamp_replicate (Nat.zero_le _) n),
      zipWith_orDepth_ramp (belowRamp_ramp (by omega) n)]
  simp only [aluDepth, Config.decoderWidth, decoderDepth_three, hmul, hadd, hsub, harith]
  simp only [portDepth, List.zipWith_replicate', switchDepth_replicate]
  rw [zipWith_orDepth_ramp (belowRamp_replicate ?logic n), deepest_ramp _ hn]
  case logic =>
    simp only [orDepth_eq, nandDepth, norDepth, andDepth_eq, notDepth]
    omega
  omega

theorem longestPath_alu {n : Nat} (h : 3 ≤ n) : longestPath (.alu n) = [(.Y, 14 * n - 4)] := by
  rw [longestPath, aluDepth_eq h]

/-! ## The closed forms and the table (R157) -/

/-- Settles O57: the totals are sums of the counts at every width, and the Adder's paths those of its ripple. -/
theorem netlistClosedForms : Obligations.NetlistClosedForms := by
  refine fun n hn => ⟨?adder, ?negator, ?subtractor, ?switch, multiplierCount_total_add hn, aluCount_total hn,
    longestPath_adder hn⟩
  case adder => rw [primCount, adderCount_eq, PrimCount.total, ← Nat.add_mul]
  case negator => rw [primCount, negatorCount_eq, PrimCount.total, ← Nat.add_mul]
  case subtractor => rw [primCount, subtractorCount_eq, PrimCount.total, ← Nat.add_mul]
  case switch => rw [primCount, switchCount_eq, PrimCount.total, Nat.two_mul]

/-- Settles O58: the rows of the one-bit components are read off, those of the others are the closed forms at 8 and 32. -/
theorem netlistPathsOfTheTable : Obligations.NetlistPathsOfTheTable := by
  refine ⟨⟨halfAdderCount_eq, rfl⟩, ⟨fullAdderCount_eq, rfl⟩,
    ⟨adderCount_eq 8, longestPath_adder (by decide)⟩, ⟨adderCount_eq 32, longestPath_adder (by decide)⟩,
    ⟨negatorCount_eq 8, longestPath_negator (by decide)⟩, ⟨negatorCount_eq 32, longestPath_negator (by decide)⟩,
    ⟨subtractorCount_eq 8, longestPath_subtractor (by decide)⟩,
    ⟨subtractorCount_eq 32, longestPath_subtractor (by decide)⟩,
    fun n => ⟨switchCount_eq n, rfl⟩, ⟨decoderCount_three, rfl⟩,
    ⟨multiplierCount_eq 8, longestPath_multiplier (by decide)⟩,
    ⟨multiplierCount_eq 32, longestPath_multiplier (by decide)⟩,
    ⟨?alu8, longestPath_alu (by decide)⟩, ⟨?alu32, longestPath_alu (by decide)⟩⟩
  case alu8 => rw [primCount, aluCount_eq, multiplierCount_eq]
  case alu32 => rw [primCount, aluCount_eq, multiplierCount_eq]

end Sys2Proof.Machine
